-- ==== Sys2Proof/Word.lean ====
section
/-!
DEFINITION. The two word types of the machine (00_scope.md R8: every register value is unsigned; there is no signed
quantity anywhere, so no signed arithmetic is defined).
-/
namespace Sys2Proof

/-- One byte: the addressable unit of memory and the width of a V register (20_memory.md R51, 10_state.md R21). -/
abbrev Byte := BitVec 8

/-- Sixteen bits: an opcode word, I, PC and a stack entry (30_encoding.md R80, 10_state.md R23, R24, R26). -/
abbrev Word := BitVec 16

end Sys2Proof
end

