-- ==== Sys2Proof/Syntax.lean ====
section
/-!
DEFINITION. The instruction set: one constructor per row of spec/opcode_table.json, in the table's order (30_encoding.md
R84). The operand types have exactly the widths of the fields of R81, so a term of `Instr` can hold no operand that has no
encoding: what can be ill-formed is a word, and WellFormed.lean checks words.
-/
namespace Sys2Proof

/-- A register index, the `x` or `y` field: 0 to 15 (30_encoding.md R81, R91). -/
abbrev Reg := Fin 16

/-- The `nnn` field: an unsigned 12-bit absolute byte address (R81, R91). -/
abbrev Address := BitVec 12

/-- The `n` field of `draw`: the number of sprite rows, 0 to 15 (R81, R91). -/
abbrev RowCount := Fin 16

/-- The 34 operations (30_encoding.md R84, 90_conflicts.md C1). -/
inductive Instr where
  /-- 00E0 `clear-display` (R193): every framebuffer cell to 0. -/
  | clearDisplay
  /-- 00EE `return` (R120): pop PC from the return-address stack. -/
  | ret
  /-- 1nnn `jump` (R121): PC to nnn. -/
  | jump (nnn : Address)
  /-- 2nnn `call` (R122): push PC, then PC to nnn. -/
  | call (nnn : Address)
  /-- 3xkk `skip-eq-imm` (R123): skip if Vx = kk. -/
  | skipEqImm (x : Reg) (kk : Byte)
  /-- 4xkk `skip-ne-imm` (R124): skip if Vx differs from kk. -/
  | skipNeImm (x : Reg) (kk : Byte)
  /-- 5xy0 `skip-eq-reg` (R125): skip if Vx = Vy. -/
  | skipEqReg (x y : Reg)
  /-- 6xkk `load-imm` (R140): Vx to kk. -/
  | loadImm (x : Reg) (kk : Byte)
  /-- 7xkk `add-imm` (R141): Vx to Vx + kk, no flag. -/
  | addImm (x : Reg) (kk : Byte)
  /-- 8xy0 `move` (R142): Vx to Vy. -/
  | move (x y : Reg)
  /-- 8xy1 `or` (R143): Vx to Vx or Vy. -/
  | or (x y : Reg)
  /-- 8xy2 `and` (R144): Vx to Vx and Vy. -/
  | and (x y : Reg)
  /-- 8xy3 `xor` (R145): Vx to Vx exclusive-or Vy. -/
  | xor (x y : Reg)
  /-- 8xy4 `add` (R149): VF to the carry, then Vx to Vx + Vy. -/
  | add (x y : Reg)
  /-- 8xy5 `sub` (R150): VF to Vx > Vy, then Vx to Vx - Vy. -/
  | sub (x y : Reg)
  /-- 8xy6 `shift-right` (R151): VF to bit 0 of Vx, then Vx halved; y ignored (R86). -/
  | shiftRight (x y : Reg)
  /-- 8xy7 `subn` (R152): VF to Vy > Vx, then Vx to Vy - Vx. -/
  | subn (x y : Reg)
  /-- 8xyE `shift-left` (R153): VF to bit 7 of Vx, then Vx doubled; y ignored (R86). -/
  | shiftLeft (x y : Reg)
  /-- 9xy0 `skip-ne-reg` (R126): skip if Vx differs from Vy. -/
  | skipNeReg (x y : Reg)
  /-- Annn `load-index` (R170): I to nnn. -/
  | loadIndex (nnn : Address)
  /-- Bnnn `jump-indexed` (R127): PC to V0 + nnn. -/
  | jumpIndexed (nnn : Address)
  /-- Cxkk `random` (R163): Vx to the step's random byte and kk. -/
  | random (x : Reg) (kk : Byte)
  /-- Dxyn `draw` (R194): exclusive-or an n-row sprite from memory at I onto the framebuffer. -/
  | draw (x y : Reg) (n : RowCount)
  /-- Ex9E `skip-if-pressed` (R200): skip if the key numbered by Vx is down. -/
  | skipIfPressed (x : Reg)
  /-- ExA1 `skip-if-not-pressed` (R201): skip if the key numbered by Vx is up. -/
  | skipIfNotPressed (x : Reg)
  /-- Fx07 `load-dt` (R205): Vx to DT. -/
  | loadDt (x : Reg)
  /-- Fx0A `wait-for-key` (R204): retry until a key is down, then Vx to the lowest one. -/
  | waitForKey (x : Reg)
  /-- Fx15 `set-dt` (R206): DT to Vx. -/
  | setDt (x : Reg)
  /-- Fx18 `set-st` (R207): ST to Vx. -/
  | setSt (x : Reg)
  /-- Fx1E `add-index` (R172): I to I + Vx, with the warning. -/
  | addIndex (x : Reg)
  /-- Fx29 `load-font-index` (R173): I to 5 * Vx. -/
  | loadFontIndex (x : Reg)
  /-- Fx33 `store-bcd` (R174): three decimal digits of Vx to memory at I. -/
  | storeBcd (x : Reg)
  /-- Fx55 `store-regs` (R175): V0 to Vx to memory at I. -/
  | storeRegs (x : Reg)
  /-- Fx65 `load-regs` (R176): V0 to Vx from memory at I. -/
  | loadRegs (x : Reg)
  deriving DecidableEq, Repr

/-- The operation's name in the source's table, the spec's mnemonic (30_encoding.md R84, R89). -/
def Instr.mnemonic : Instr → String
  | .clearDisplay => "clear-display"
  | .ret => "return"
  | .jump _ => "jump"
  | .call _ => "call"
  | .skipEqImm _ _ => "skip-eq-imm"
  | .skipNeImm _ _ => "skip-ne-imm"
  | .skipEqReg _ _ => "skip-eq-reg"
  | .loadImm _ _ => "load-imm"
  | .addImm _ _ => "add-imm"
  | .move _ _ => "move"
  | .or _ _ => "or"
  | .and _ _ => "and"
  | .xor _ _ => "xor"
  | .add _ _ => "add"
  | .sub _ _ => "sub"
  | .shiftRight _ _ => "shift-right"
  | .subn _ _ => "subn"
  | .shiftLeft _ _ => "shift-left"
  | .skipNeReg _ _ => "skip-ne-reg"
  | .loadIndex _ => "load-index"
  | .jumpIndexed _ => "jump-indexed"
  | .random _ _ => "random"
  | .draw _ _ _ => "draw"
  | .skipIfPressed _ => "skip-if-pressed"
  | .skipIfNotPressed _ => "skip-if-not-pressed"
  | .loadDt _ => "load-dt"
  | .waitForKey _ => "wait-for-key"
  | .setDt _ => "set-dt"
  | .setSt _ => "set-st"
  | .addIndex _ => "add-index"
  | .loadFontIndex _ => "load-font-index"
  | .storeBcd _ => "store-bcd"
  | .storeRegs _ => "store-regs"
  | .loadRegs _ => "load-regs"

end Sys2Proof
end

