-- ==== Sys2Proof/WellFormed.lean ====
section
/-!
DEFINITION. The opcode table of 30_encoding.md R84 as data, and well-formedness of an opcode word: a word is well formed
when it matches a row of the table, that is when `(w & mask) == match` for that row (R83). The operand types of `Instr`
already carry every bound of R81, so every term of `Instr` is well formed as syntax; the checks here are the six of R85.
-/
namespace Sys2Proof

/-- One row of the opcode table: the operation's name, the fixed bits' value (the table's match) and their mask. -/
structure OpcodeRow where
  mnemonic : String
  value    : Word
  mask     : Word
  deriving DecidableEq, Repr

/-- `(w & mask) == match` (R83). -/
def OpcodeRow.selects (r : OpcodeRow) (w : Word) : Bool := w &&& r.mask == r.value

/-- Rows 00E0 to 7xkk. -/
def opcodeRowsControl : List OpcodeRow :=
  [⟨"clear-display", 0x00E0, 0xFFFF⟩,
   ⟨"return", 0x00EE, 0xFFFF⟩,
   ⟨"jump", 0x1000, 0xF000⟩,
   ⟨"call", 0x2000, 0xF000⟩,
   ⟨"skip-eq-imm", 0x3000, 0xF000⟩,
   ⟨"skip-ne-imm", 0x4000, 0xF000⟩,
   ⟨"skip-eq-reg", 0x5000, 0xF00F⟩,
   ⟨"load-imm", 0x6000, 0xF000⟩,
   ⟨"add-imm", 0x7000, 0xF000⟩]

/-- Rows 8xy0 to 9xy0. -/
def opcodeRowsClass8 : List OpcodeRow :=
  [⟨"move", 0x8000, 0xF00F⟩,
   ⟨"or", 0x8001, 0xF00F⟩,
   ⟨"and", 0x8002, 0xF00F⟩,
   ⟨"xor", 0x8003, 0xF00F⟩,
   ⟨"add", 0x8004, 0xF00F⟩,
   ⟨"sub", 0x8005, 0xF00F⟩,
   ⟨"shift-right", 0x8006, 0xF00F⟩,
   ⟨"subn", 0x8007, 0xF00F⟩,
   ⟨"shift-left", 0x800E, 0xF00F⟩,
   ⟨"skip-ne-reg", 0x9000, 0xF00F⟩]

/-- Rows Annn to Dxyn. -/
def opcodeRowsUpper : List OpcodeRow :=
  [⟨"load-index", 0xA000, 0xF000⟩,
   ⟨"jump-indexed", 0xB000, 0xF000⟩,
   ⟨"random", 0xC000, 0xF000⟩,
   ⟨"draw", 0xD000, 0xF000⟩]

/-- Rows Ex9E to Fx65. -/
def opcodeRowsKeysTimers : List OpcodeRow :=
  [⟨"skip-if-pressed", 0xE09E, 0xF0FF⟩,
   ⟨"skip-if-not-pressed", 0xE0A1, 0xF0FF⟩,
   ⟨"load-dt", 0xF007, 0xF0FF⟩,
   ⟨"wait-for-key", 0xF00A, 0xF0FF⟩,
   ⟨"set-dt", 0xF015, 0xF0FF⟩,
   ⟨"set-st", 0xF018, 0xF0FF⟩,
   ⟨"add-index", 0xF01E, 0xF0FF⟩,
   ⟨"load-font-index", 0xF029, 0xF0FF⟩,
   ⟨"store-bcd", 0xF033, 0xF0FF⟩,
   ⟨"store-regs", 0xF055, 0xF0FF⟩,
   ⟨"load-regs", 0xF065, 0xF0FF⟩]

/-- The 34 rows of R84, in the table's order. -/
def opcodeTable : List OpcodeRow :=
  opcodeRowsControl ++ opcodeRowsClass8 ++ opcodeRowsUpper ++ opcodeRowsKeysTimers

/-- A word is well formed when some row of the table selects it; every other word is unrecognised (R85). -/
def wellFormedWord (w : Word) : Bool := opcodeTable.any (fun r => r.selects w)

end Sys2Proof
end

