-- ==== Sys2Proof/Decode.lean ====
section
/-!
DEFINITION. Decoding and encoding of instruction words (30_encoding.md R80 to R86, 40_step_cycle.md R103, R104). Decode is
a total, pure function of the word; what it does not recognise it rejects by name.
-/
namespace Sys2Proof

/-! ### Fields (30_encoding.md R81) -/

/-- `class`, bits 15:12. -/
def fieldClass (w : Word) : BitVec 4 := w.extractLsb' 12 4

/-- `x`, bits 11:8. -/
def fieldX (w : Word) : Reg := (w.extractLsb' 8 4).toFin

/-- `y`, bits 7:4. -/
def fieldY (w : Word) : Reg := (w.extractLsb' 4 4).toFin

/-- `n`, bits 3:0. -/
def fieldN (w : Word) : RowCount := (w.extractLsb' 0 4).toFin

/-- `kk`, bits 7:0. -/
def fieldKk (w : Word) : Byte := w.extractLsb' 0 8

/-- `nnn`, bits 11:0. -/
def fieldNnn (w : Word) : Address := w.extractLsb' 0 12

/-! ### Decoding (40_step_cycle.md R104) -/

/-- Why bytes are no instruction. -/
inductive DecodeError where
  /-- The word matches no row of the opcode table (30_encoding.md R85). -/
  | unrecognised (w : Word)
  /-- Fewer than the two bytes of an instruction (R80). -/
  | truncated
  deriving DecidableEq, Repr

/-- Class 0 looks at the whole word (R83 (a)). -/
def decodeClass0 (w : Word) : Except DecodeError Instr :=
  if w = 0x00E0 then .ok .clearDisplay
  else if w = 0x00EE then .ok .ret
  else .error (.unrecognised w)

/-- Class 8 dispatches on `n` (R83 (c)). -/
def decodeClass8 (w : Word) : Except DecodeError Instr :=
  match (fieldN w).val with
  | 0x0 => .ok (.move (fieldX w) (fieldY w))
  | 0x1 => .ok (.or (fieldX w) (fieldY w))
  | 0x2 => .ok (.and (fieldX w) (fieldY w))
  | 0x3 => .ok (.xor (fieldX w) (fieldY w))
  | 0x4 => .ok (.add (fieldX w) (fieldY w))
  | 0x5 => .ok (.sub (fieldX w) (fieldY w))
  | 0x6 => .ok (.shiftRight (fieldX w) (fieldY w))
  | 0x7 => .ok (.subn (fieldX w) (fieldY w))
  | 0xE => .ok (.shiftLeft (fieldX w) (fieldY w))
  | _   => .error (.unrecognised w)

/-- Class E dispatches on `kk` (R83 (d)). -/
def decodeClassE (w : Word) : Except DecodeError Instr :=
  match (fieldKk w).toNat with
  | 0x9E => .ok (.skipIfPressed (fieldX w))
  | 0xA1 => .ok (.skipIfNotPressed (fieldX w))
  | _    => .error (.unrecognised w)

/-- Class F dispatches on `kk` (R83 (d)). -/
def decodeClassF (w : Word) : Except DecodeError Instr :=
  match (fieldKk w).toNat with
  | 0x07 => .ok (.loadDt (fieldX w))
  | 0x0A => .ok (.waitForKey (fieldX w))
  | 0x15 => .ok (.setDt (fieldX w))
  | 0x18 => .ok (.setSt (fieldX w))
  | 0x1E => .ok (.addIndex (fieldX w))
  | 0x29 => .ok (.loadFontIndex (fieldX w))
  | 0x33 => .ok (.storeBcd (fieldX w))
  | 0x55 => .ok (.storeRegs (fieldX w))
  | 0x65 => .ok (.loadRegs (fieldX w))
  | _    => .error (.unrecognised w)

/-- Decode one opcode word by its class nibble (R104); classes 5 and 9 require `n = 0` (R83 (b)). -/
def decodeWord (w : Word) : Except DecodeError Instr :=
  match (fieldClass w).toNat with
  | 0x0 => decodeClass0 w
  | 0x1 => .ok (.jump (fieldNnn w))
  | 0x2 => .ok (.call (fieldNnn w))
  | 0x3 => .ok (.skipEqImm (fieldX w) (fieldKk w))
  | 0x4 => .ok (.skipNeImm (fieldX w) (fieldKk w))
  | 0x5 => if (fieldN w).val = 0x0 then .ok (.skipEqReg (fieldX w) (fieldY w)) else .error (.unrecognised w)
  | 0x6 => .ok (.loadImm (fieldX w) (fieldKk w))
  | 0x7 => .ok (.addImm (fieldX w) (fieldKk w))
  | 0x8 => decodeClass8 w
  | 0x9 => if (fieldN w).val = 0x0 then .ok (.skipNeReg (fieldX w) (fieldY w)) else .error (.unrecognised w)
  | 0xA => .ok (.loadIndex (fieldNnn w))
  | 0xB => .ok (.jumpIndexed (fieldNnn w))
  | 0xC => .ok (.random (fieldX w) (fieldKk w))
  | 0xD => .ok (.draw (fieldX w) (fieldY w) (fieldN w))
  | 0xE => decodeClassE w
  | 0xF => decodeClassF w
  | _   => .error (.unrecognised w)

/-- The opcode word of two bytes, the first the high byte (20_memory.md R56). -/
def wordOfBytes (hi lo : Byte) : Word := hi ++ lo

/-- The two bytes of an opcode word in memory order, the high byte at the lower address (R56). -/
def bytesOfWord (w : Word) : List Byte := [w.extractLsb' 8 8, w.extractLsb' 0 8]

/-- Decode the instruction at the head of any bytes; every instruction takes two (R80). -/
def decode : List Byte → Except DecodeError (Instr × List Byte)
  | hi :: lo :: rest =>
    match decodeWord (wordOfBytes hi lo) with
    | .ok i => .ok (i, rest)
    | .error e => .error e
  | _ => .error .truncated

/-! ### Encoding (30_encoding.md R82, R84) -/

/-- Format `A`: class, nnn. -/
def encodeA (c : BitVec 4) (nnn : Address) : Word := c ++ nnn

/-- Format `XK`: class, x, kk. -/
def encodeXK (c : BitVec 4) (x : Reg) (kk : Byte) : Word := c ++ (BitVec.ofFin (w := 4) x ++ kk)

/-- Formats `XYS` and `XYN`: class, x, y, the selector or the row count. -/
def encodeXYN (c : BitVec 4) (x y : Reg) (n : BitVec 4) : Word :=
  c ++ (BitVec.ofFin (w := 4) x ++ (BitVec.ofFin (w := 4) y ++ n))

/-- The opcode word of an instruction; format `XS` is `XK` with the selector in place of `kk`. -/
def encodeWord : Instr → Word
  | .clearDisplay => 0x00E0
  | .ret => 0x00EE
  | .jump nnn => encodeA 0x1 nnn
  | .call nnn => encodeA 0x2 nnn
  | .skipEqImm x kk => encodeXK 0x3 x kk
  | .skipNeImm x kk => encodeXK 0x4 x kk
  | .skipEqReg x y => encodeXYN 0x5 x y 0x0
  | .loadImm x kk => encodeXK 0x6 x kk
  | .addImm x kk => encodeXK 0x7 x kk
  | .move x y => encodeXYN 0x8 x y 0x0
  | .or x y => encodeXYN 0x8 x y 0x1
  | .and x y => encodeXYN 0x8 x y 0x2
  | .xor x y => encodeXYN 0x8 x y 0x3
  | .add x y => encodeXYN 0x8 x y 0x4
  | .sub x y => encodeXYN 0x8 x y 0x5
  | .shiftRight x y => encodeXYN 0x8 x y 0x6
  | .subn x y => encodeXYN 0x8 x y 0x7
  | .shiftLeft x y => encodeXYN 0x8 x y 0xE
  | .skipNeReg x y => encodeXYN 0x9 x y 0x0
  | .loadIndex nnn => encodeA 0xA nnn
  | .jumpIndexed nnn => encodeA 0xB nnn
  | .random x kk => encodeXK 0xC x kk
  | .draw x y n => encodeXYN 0xD x y (BitVec.ofFin (w := 4) n)
  | .skipIfPressed x => encodeXK 0xE x 0x9E
  | .skipIfNotPressed x => encodeXK 0xE x 0xA1
  | .loadDt x => encodeXK 0xF x 0x07
  | .waitForKey x => encodeXK 0xF x 0x0A
  | .setDt x => encodeXK 0xF x 0x15
  | .setSt x => encodeXK 0xF x 0x18
  | .addIndex x => encodeXK 0xF x 0x1E
  | .loadFontIndex x => encodeXK 0xF x 0x29
  | .storeBcd x => encodeXK 0xF x 0x33
  | .storeRegs x => encodeXK 0xF x 0x55
  | .loadRegs x => encodeXK 0xF x 0x65

/-- The bytes of an instruction as they stand in memory. -/
def encode (i : Instr) : List Byte := bytesOfWord (encodeWord i)

/-! ### The host's question about one row of the opcode table -/

/-- The opcode word whose bits, numbered as spec/opcode_table.json numbers them, are the low `nbits` bits of `w`. -/
def tableWord (nbits w : Nat) : Word := BitVec.ofNat 16 (w % 2 ^ nbits)

/-- What the decoder reads from the instruction with those bits, laid out in memory order. -/
def decodeTableWord (nbits w : Nat) : Option Instr :=
  match decode (bytesOfWord (tableWord nbits w)) with
  | .ok (i, _) => some i
  | .error _ => none

end Sys2Proof
end

