-- ==== Sys2Proof/Config.lean ====
section
/-!
DEFINITION. The parameters of 00_scope.md R6 that the spec names as parameters of a model, with the values this hardware
takes, and the free values: the inputs of a step, which no rule determines.
-/
namespace Sys2Proof

/-- `MEM_SIZE` (R6): bytes of memory. -/
@[simp] abbrev Config.memSize : Nat := 4096

/-- `STACK_DEPTH` (R6): entries of the return-address stack. -/
@[simp] abbrev Config.stackDepth : Nat := 16

/-- `TIMER_PERIOD_US` (R6, decision D34). -/
@[simp] abbrev Config.timerPeriodUs : Nat := 16667

/-- `ENTRY_PC` (R6): PC at reset and load address of the ROM image. -/
@[simp] abbrev Config.entryPc : Nat := 0x200

/-- `RESERVED_SIZE` (R6): bytes of the reserved region. -/
@[simp] abbrev Config.reservedSize : Nat := 512

/-- `ROM_MAX` (R6): the largest ROM image in bytes. -/
@[simp] abbrev Config.romMax : Nat := 3584

/-- `GLYPH_STRIDE` (R6): multiplier of `load-font-index`. -/
@[simp] abbrev Config.glyphStride : Nat := 5

/-- `PC_LIMIT` (R6, decision D9): PC values at or above it raise ProgramCounterOutOfRange. -/
@[simp] abbrev Config.pcLimit : Nat := 4096

/-- `INDEX_WARN_LIMIT` (R6, decision D10): I values at or above it after `add-index` assert the warning. -/
@[simp] abbrev Config.indexWarnLimit : Nat := 4096

/-- `RESERVED_IMAGE` (R6, decision D5): contents of 0x000 to 0x1FF at reset. DESIGN CHOICE (log 5): the spec's default,
512 zero bytes; the spec leaves it open to a platform with a font. -/
def Config.reservedImage : List Byte := List.replicate 512 0x00

/-- FREE VALUE (log 1): the random byte the host supplies with the n-th step (42_alu.md R163, 46_host_interface.md
R222). Opaque: any byte, no law. -/
opaque Config.randomByte : Nat → Byte

/-- FREE VALUE (log 2): the microseconds of host time that pass before the n-th step (46_host_interface.md R221). Opaque:
any amount, zero included, so that `now` takes every non-decreasing sequence of values. -/
opaque Config.elapsedUs : Nat → Nat

end Sys2Proof
end

