-- ==== Sys2Proof/Machine/State.lean ====
section
/-!
DEFINITION. The state of the CORE as plain data (10_state.md R20), its value after reset (R40), and the reasons a step
can stop (60_exceptions.md R240).
-/
namespace Sys2Proof.Machine

/-- The 4096-byte memory (20_memory.md R50) as (address, byte) pairs in the canonical form `Memory.wf` of Ops.lean:
addresses strictly rising and below 4096, no entry equal to what an unlisted address reads as. -/
abbrev Memory := List Host.Cell

/-- The 64 by 32 cells, each 0 (false) or 1 (true): row cy, then column cx (10_state.md R33). The flat order of R33 is
that of the snapshot, in Transactions.lean. -/
abbrev Framebuffer := Vector (Vector Bool 64) 32

/-- Everything that persists from one step to the next (10_state.md R20), and last the model's own four fields, which
carry the ports of 46_host_interface.md R220 and are no state of the spec (log 1, log 2, log 7). -/
structure State where
  /-- V0 to VF, 8 bits each; VF is `v[15]` (R21, R22). -/
  v      : Vector Byte 16
  /-- The index register (R23). -/
  i      : Word
  /-- The program counter (R24). -/
  pc     : Word
  /-- The stack pointer: the number of stacked return addresses (R25). -/
  sp     : Byte
  /-- The return-address stack (R26). -/
  stk    : Vector Word 16
  /-- The delay timer (R28). -/
  dt     : Byte
  /-- The sound timer (R31). -/
  st     : Byte
  /-- The timer-update reference point, microseconds (R29). -/
  tref   : Nat
  /-- The key latch: `key[k]` true while key k is pressed (R32). -/
  key    : Vector Bool 16
  /-- The framebuffer (R33). -/
  fb     : Framebuffer
  /-- The framebuffer-dirty flag (R34). -/
  dirty  : Bool
  /-- The opcode word of the last fetched instruction (R35). -/
  ir     : Word
  /-- Memory (R36). -/
  mem    : Memory
  /-- The model's own: the `now` input, as sampled by the last step or reset (R221). -/
  now    : Nat
  /-- The model's own: the `rand` input, as sampled by the current step (R222). -/
  rand   : Byte
  /-- The model's own: the `warn` output of the last step (10_state.md R38). -/
  warn   : Bool
  /-- The model's own: how many of Config's free inputs `step` has drawn. -/
  stepNo : Nat
  deriving DecidableEq, Repr

/-- The machine right after reset (R40, 70_reset_and_hazards.md R280): PC = 0x200 and memory with nothing listed, from
the source; every other value zero or false, the spec's choice (log 4); `now` and `TREF` are 0 (log 3). -/
def State.reset : State where
  v := Vector.replicate 16 0
  i := 0
  pc := 0x200
  sp := 0
  stk := Vector.replicate 16 0
  dt := 0
  st := 0
  tref := 0
  key := Vector.replicate 16 false
  fb := Vector.replicate 32 (Vector.replicate 64 false)
  dirty := false
  ir := 0
  mem := []
  now := 0
  rand := 0
  warn := false
  stepNo := 0

/-- The errors of a step. Each carries the state the step leaves behind (00_scope.md R11, 40_step_cycle.md R108), so that
nothing the spec says of an error is lost; the run ends all the same (60_exceptions.md R252, log 6). -/
inductive Fault where
  /-- OutOfBounds (R241): raised by the fetch, `draw`, `store-bcd`, `store-regs` and `load-regs` when an access would run
  past byte 4095. Safe: the spec's own error. -/
  | outOfBounds (left : State)
  /-- StackOverflow (R242): raised by `call` with 16 return addresses stacked. Safe: the spec's own error. -/
  | stackOverflow (left : State)
  /-- StackUnderflow (R243): raised by `return` with an empty stack. Safe: the spec's own error. -/
  | stackUnderflow (left : State)
  /-- ProgramCounterOutOfRange (R244): raised by the post-check of any instruction that leaves PC at 4096 or more. Safe:
  the spec's own error. -/
  | programCounterOutOfRange (left : State)
  /-- InvalidInstruction (R245): raised by the step whose word matches no row of the opcode table. Safe: the spec's own
  error. -/
  | invalidInstruction (left : State)
  /-- KeyIndexOutOfRange (R247): raised by the two key skips when Vx is above 15. Safe: the spec's own error. -/
  | keyIndexOutOfRange (left : State)
  /-- The model's own: raised by `call` and `return` in a state whose SP is above 16, which no run reaches (10_state.md
  R41 (b)) and to which the spec gives no meaning (log 8). Safe: the model stops. -/
  | stackPointerBeyondStack (left : State)
  deriving DecidableEq, Repr

/-- Reasons for having no meaning. -/
inductive Refusal where
  /-- Raised by an arm of `exec` whose instruction has no meaning yet. Safe: nothing is claimed of it. No arm of this
  model raises it. -/
  | notModelled (mnemonic : String)
  deriving DecidableEq, Repr

end Sys2Proof.Machine
end

