-- ==== Sys2Proof/Machine/Ops.lean ====
section
/-!
DEFINITION. The named operations over memory, registers, the stack and the timers; what raising an error does; and the
phases of a step that run no instruction (20_memory.md, 40_step_cycle.md).
-/
namespace Sys2Proof.Machine

/-! ### Memory cells -/

/-- What an address that memory does not list reads as: memory is zero-initialized (10_state.md R36, R40). -/
def Memory.unlisted (_a : Nat) : Byte := 0x00

/-- `MEM[a]`. -/
def Memory.readByte : Memory → Nat → Byte
  | [], a => Memory.unlisted a
  | (k, b) :: m, a => if k = a then b else Memory.readByte m a

/-- Memory without an entry for `a`. -/
def Memory.removeEntry (m : Memory) (a : Nat) : Memory := m.filter (fun c => c.1 != a)

/-- Memory with an entry put before the first higher address. -/
def Memory.insertEntry : Memory → Nat → Byte → Memory
  | [], a, b => [(a, b)]
  | (k, c) :: m, a, b => if a < k then (a, b) :: (k, c) :: m else (k, c) :: Memory.insertEntry m a b

/-- `MEM[a] <- b`, in canonical form: writing what an unlisted address reads as removes the entry. -/
def Memory.writeByte (m : Memory) (a : Nat) (b : Byte) : Memory :=
  if b = Memory.unlisted a then m.removeEntry a else (m.removeEntry a).insertEntry a b

/-- The canonical form: addresses strictly rising and below 4096, no entry equal to what an unlisted address reads as. -/
def Memory.wf : Memory → Bool
  | [] => true
  | (a, b) :: m =>
    decide (a < Config.memSize) && b != Memory.unlisted a && m.all (fun c => decide (a < c.1)) && Memory.wf m

/-! ### The two bus operations (20_memory.md R52, R53, R54) -/

/-- The bytes at `a`, `a+1`, …, lowest address first. -/
def Memory.readBytes (m : Memory) (a : Nat) : Nat → List Byte
  | 0 => []
  | n + 1 => m.readByte a :: Memory.readBytes m (a + 1) n

/-- Stores the bytes at `a`, `a+1`, …, lowest address first. -/
def Memory.writeBytes (m : Memory) (a : Nat) : List Byte → Memory
  | [] => m
  | b :: bs => Memory.writeBytes (m.writeByte a b) (a + 1) bs

/-- `MemRead(addr, n)` (R52): nothing when the access would run past the last byte; the sum is unbounded (R54). -/
def memRead (m : Memory) (addr n : Nat) : Option (List Byte) :=
  if addr + n > Config.memSize then none else some (m.readBytes addr n)

/-- `MemWrite(addr, n, bytes)` (R53), `n` the number of bytes: nothing is written when the access would run past the last
byte. -/
def memWrite (m : Memory) (addr : Nat) (bytes : List Byte) : Option Memory :=
  if addr + bytes.length > Config.memSize then none else some (m.writeBytes addr bytes)

/-! ### Fields of the state, one update each -/

/-- `V[x]`. -/
def State.getV (s : State) (x : Reg) : Byte := s.v[x]

/-- `V[x] <- b`. No register is hardwired (10_state.md R21). -/
def State.setV (s : State) (x : Reg) (b : Byte) : State := { s with v := s.v.set x b }

/-- The whole register file replaced. -/
def State.setRegisters (s : State) (v : Vector Byte 16) : State := { s with v := v }

/-- `I <- w`. -/
def State.setI (s : State) (w : Word) : State := { s with i := w }

/-- `PC <- w`. -/
def State.setPc (s : State) (w : Word) : State := { s with pc := w }

/-- `SP <- b`. -/
def State.setSp (s : State) (b : Byte) : State := { s with sp := b }

/-- `STK[j] <- w`. -/
def State.setStk (s : State) (j : Fin 16) (w : Word) : State := { s with stk := s.stk.set j w }

/-- `DT <- b`. -/
def State.setDt (s : State) (b : Byte) : State := { s with dt := b }

/-- `ST <- b`. -/
def State.setSt (s : State) (b : Byte) : State := { s with st := b }

/-- `TREF <- t`. -/
def State.setTref (s : State) (t : Nat) : State := { s with tref := t }

/-- `KEY[k] <- d`; only the host does this (R32). -/
def State.setKeyCell (s : State) (k : Fin 16) (d : Bool) : State := { s with key := s.key.set k d }

/-- The whole key latch replaced: what any sequence of key transactions comes to. -/
def State.setKeys (s : State) (key : Vector Bool 16) : State := { s with key := key }

/-- The framebuffer replaced. -/
def State.setFb (s : State) (f : Framebuffer) : State := { s with fb := f }

/-- `DIRTY <- d`. -/
def State.setDirty (s : State) (d : Bool) : State := { s with dirty := d }

/-- `IR <- w`. -/
def State.setIr (s : State) (w : Word) : State := { s with ir := w }

/-- Memory replaced. -/
def State.setMem (s : State) (m : Memory) : State := { s with mem := m }

/-- `warn <- d`. -/
def State.setWarn (s : State) (d : Bool) : State := { s with warn := d }

/-- The two inputs of a step, sampled (46_host_interface.md R221, R222). -/
def State.setInputs (s : State) (now : Nat) (rand : Byte) : State := { s with now := now, rand := rand }

/-- The model's own counter of drawn inputs. -/
def State.setStepNo (s : State) (n : Nat) : State := { s with stepNo := n }

/-- VF, the only flag (10_state.md R22). -/
def vf : Reg := 15

/-! ### Errors (60_exceptions.md R250) -/

/-- Raising an error (00_scope.md R11, R250): it saves nothing, changes no mode, transfers control nowhere; it ends the
step with the state as it stands. There is no handler and so no return from one (R252). -/
def raise (error : State → Fault) (s : State) : Host.Outcome State Fault Refusal := .fault (error s)

/-! ### The return-address stack (10_state.md R25 to R27) -/

/-- Push (41_control_flow.md R122): full is tested before any change (40_step_cycle.md R107). SP above 16 cannot occur
(log 8). -/
def pushThen (w : Word) (k : State → State) (s : State) : Host.Outcome State Fault Refusal :=
  if h : s.sp.toNat < Config.stackDepth then
    .next (k ((s.setStk ⟨s.sp.toNat, h⟩ w).setSp (s.sp + 1)))
  else if s.sp.toNat = Config.stackDepth then raise .stackOverflow s
  else raise .stackPointerBeyondStack s

/-- Pop (R120): empty is tested before any change; the popped entry stays in the array (R26). SP above 16 cannot occur
(log 8). -/
def popThen (k : Word → State → State) (s : State) : Host.Outcome State Fault Refusal :=
  if s.sp = 0 then raise .stackUnderflow s
  else if h : s.sp.toNat - 1 < Config.stackDepth then
    .next (k s.stk[s.sp.toNat - 1] (s.setSp (s.sp - 1)))
  else raise .stackPointerBeyondStack s

/-! ### Skips (41_control_flow.md R128) -/

/-- A skip: PC moves past the two bytes that follow, when the condition holds. -/
def skipIf (c : Bool) (s : State) : State := s.setPc (if c then s.pc + 2 else s.pc)

/-! ### The timer phase (40_step_cycle.md R101) -/

/-- A period has elapsed since TREF. Natural subtraction gives 0 for a `now` below TREF, as 46_host_interface.md R221
allows. -/
def timerDue (s : State) : Bool := decide (s.now - s.tref ≥ Config.timerPeriodUs)

/-- One decrement, saturating at 0 (10_state.md R30). -/
def countDown (t : Byte) : Byte := if t = 0 then t else t - 1

/-- The timer phase with the sampled `now` (R101): at most one decrement of each timer. -/
def timerPhase (s : State) : State :=
  ((s.setDt (if timerDue s then countDown s.dt else s.dt)).setSt
    (if timerDue s then countDown s.st else s.st)).setTref (if timerDue s then s.now else s.tref)

/-! ### Fetch and post-check (40_step_cycle.md R102, R106) -/

/-- Fetch (R102): two bytes at PC, high byte first, into IR, and PC advanced by 2; nothing when they do not exist. -/
def fetch (s : State) : Option State :=
  match memRead s.mem s.pc.toNat 2 with
  | some [hi, lo] => some ((s.setIr (wordOfBytes hi lo)).setPc (s.pc + 2))
  | _ => none

/-- The post-check (R106): it follows every execute phase that did not raise, and leaves PC as it is. -/
def postCheck : Host.Outcome State Fault Refusal → Host.Outcome State Fault Refusal
  | .next s => if s.pc.toNat ≥ Config.pcLimit then raise .programCounterOutOfRange s else .next s
  | .fault f => .fault f
  | .refused r => .refused r

/-! ### Placing a word where the fetch will find it -/

/-- The two bytes of an opcode word stored at PC; nothing where PC has no two bytes. -/
def placeWordAtPc (s : State) (w : Word) : State :=
  match memWrite s.mem s.pc.toNat (bytesOfWord w) with
  | some m => s.setMem m
  | none => s

end Sys2Proof.Machine
end

