-- ==== Sys2Proof/Machine/Flags.lean ====
section
/-!
DEFINITION. Every flag computation: VF is the only flag and receives 0 or 1 (42_alu.md R164, 10_state.md R22), and the
order of the two writes of the flag-writing operations (R146).
-/
namespace Sys2Proof.Machine

/-- A condition as the number 0 or 1. -/
def flagByte (c : Bool) : Byte := if c then 1 else 0

/-- `add` (R149): 1 if the sum exceeds 255. -/
def carryFlag (a b : Byte) : Byte := flagByte (decide (a.toNat + b.toNat > 255))

/-- `sub` and `subn` (R150, R152): 1 if the first is strictly greater. -/
def greaterFlag (a b : Byte) : Byte := flagByte (decide (a.toNat > b.toNat))

/-- `shift-right` (R151): bit 0. -/
def lowBitFlag (a : Byte) : Byte := a &&& 1

/-- `shift-left` (R153): bit 7, as the number 0 or 1. -/
def highBitFlag (a : Byte) : Byte := flagByte (a &&& 0x80 != 0)

/-- The two writes in sequence (R146): VF first, from the registers before the instruction; then Vx, computed from the
registers as they are after that write. -/
def flagThenResult (flag : Byte) (x : Reg) (result : State → Byte) (s : State) : State :=
  (s.setV vf flag).setV x (result (s.setV vf flag))

end Sys2Proof.Machine
end

