-- ==== Sys2Proof/Machine/Operands.lean ====
section
/-!
DEFINITION. Every operand form the spec gives (30_encoding.md R91): register operands are read at execute time; `nnn` is
zero-extended to 16 bits, a byte register or immediate is zero-extended where it meets a 16-bit register; `x` of the block
transfers counts registers. Block transfers move registers V0 to Vx (43_index_memory.md R171, R175, R176).
-/
namespace Sys2Proof.Machine

/-- `nnn` as a 16-bit address: zero-extended, never scaled (R91). -/
def addressOperand (nnn : Address) : Word := nnn.setWidth 16

/-- A byte widened to 16 bits with zeros (00_scope.md R8). -/
def widen (b : Byte) : Word := b.setWidth 16

/-- The effective address of byte 0 of a data access: I (R171). -/
def dataAddress (s : State) : Nat := s.i.toNat

/-- The contents of V0 to Vx, in order (R175). -/
def registersUpTo (s : State) (x : Reg) : List Byte := s.v.toList.take (x.val + 1)

/-- V0, V1, … receive the bytes in order (R176); registers past the last byte keep their values. -/
def loadRegisters (v : Vector Byte 16) (bytes : List Byte) : Vector Byte 16 :=
  Vector.ofFn (fun k : Reg => bytes.getD k.val v[k])

/-- The three decimal digits of a byte, hundreds first (R174). -/
def decimalDigits (b : Byte) : List Byte :=
  [BitVec.ofNat 8 (b.toNat / 100), BitVec.ofNat 8 (b.toNat / 10 % 10), BitVec.ofNat 8 (b.toNat % 10)]

/-- The lowest-numbered key that is down (45_keys_timers.md R204). -/
def lowestKey (key : Vector Bool 16) : Option (Fin 16) := (List.finRange 16).find? (fun k => key[k])

/-- A key number as a byte. -/
def keyByte (k : Fin 16) : Byte := BitVec.ofNat 8 k.val

end Sys2Proof.Machine
end

