-- ==== Sys2Proof/Machine/Alu.lean ====
section
/-!
DEFINITION. Register load, arithmetic, logic, shifts and random (42_alu.md): arithmetic wraps modulo 256 (R164); none of
these touches anything but V registers.
-/
namespace Sys2Proof.Machine

/-- 6xkk `load-imm` (R140). -/
def execLoadImm (x : Reg) (kk : Byte) (s : State) : Host.Outcome State Fault Refusal :=
  .next (s.setV x kk)

/-- 7xkk `add-imm` (R141): no flag change. -/
def execAddImm (x : Reg) (kk : Byte) (s : State) : Host.Outcome State Fault Refusal :=
  .next (s.setV x (s.getV x + kk))

/-- 8xy0 `move` (R142). -/
def execMove (x y : Reg) (s : State) : Host.Outcome State Fault Refusal :=
  .next (s.setV x (s.getV y))

/-- 8xy1 `or` (R143): VF unchanged. -/
def execOr (x y : Reg) (s : State) : Host.Outcome State Fault Refusal :=
  .next (s.setV x (s.getV x ||| s.getV y))

/-- 8xy2 `and` (R144): VF unchanged. -/
def execAnd (x y : Reg) (s : State) : Host.Outcome State Fault Refusal :=
  .next (s.setV x (s.getV x &&& s.getV y))

/-- 8xy3 `xor` (R145): VF unchanged. -/
def execXor (x y : Reg) (s : State) : Host.Outcome State Fault Refusal :=
  .next (s.setV x (s.getV x ^^^ s.getV y))

/-- 8xy4 `add` (R149). -/
def execAdd (x y : Reg) (s : State) : Host.Outcome State Fault Refusal :=
  .next (flagThenResult (carryFlag (s.getV x) (s.getV y)) x (fun t => t.getV x + t.getV y) s)

/-- 8xy5 `sub` (R150): the flag is strictly greater, not greater or equal. -/
def execSub (x y : Reg) (s : State) : Host.Outcome State Fault Refusal :=
  .next (flagThenResult (greaterFlag (s.getV x) (s.getV y)) x (fun t => t.getV x - t.getV y) s)

/-- 8xy6 `shift-right` (R151); `y` is ignored (30_encoding.md R86). -/
def execShiftRight (x _y : Reg) (s : State) : Host.Outcome State Fault Refusal :=
  .next (flagThenResult (lowBitFlag (s.getV x)) x (fun t => t.getV x >>> 1) s)

/-- 8xy7 `subn` (R152). -/
def execSubn (x y : Reg) (s : State) : Host.Outcome State Fault Refusal :=
  .next (flagThenResult (greaterFlag (s.getV y) (s.getV x)) x (fun t => t.getV y - t.getV x) s)

/-- 8xyE `shift-left` (R153); `y` is ignored (30_encoding.md R86). -/
def execShiftLeft (x _y : Reg) (s : State) : Host.Outcome State Fault Refusal :=
  .next (flagThenResult (highBitFlag (s.getV x)) x (fun t => t.getV x <<< 1) s)

/-- Cxkk `random` (R163): the byte is the step's `rand` input, a free value (log 1). -/
def execRandom (x : Reg) (kk : Byte) (s : State) : Host.Outcome State Fault Refusal :=
  .next (s.setV x (s.rand &&& kk))

end Sys2Proof.Machine
end

