-- ==== Sys2Proof/Machine/ControlFlow.lean ====
section
/-!
DEFINITION. Control flow (41_control_flow.md): PC already holds the address of the instruction plus 2 (40_step_cycle.md
R102), and the post-check follows.
-/
namespace Sys2Proof.Machine

/-- 00EE `return` (R120). -/
def execRet (s : State) : Host.Outcome State Fault Refusal :=
  popThen (fun w t => t.setPc w) s

/-- 1nnn `jump` (R121). -/
def execJump (nnn : Address) (s : State) : Host.Outcome State Fault Refusal :=
  .next (s.setPc (addressOperand nnn))

/-- 2nnn `call` (R122): the value pushed is the already advanced PC. -/
def execCall (nnn : Address) (s : State) : Host.Outcome State Fault Refusal :=
  pushThen s.pc (fun t => t.setPc (addressOperand nnn)) s

/-- 3xkk `skip-eq-imm` (R123). -/
def execSkipEqImm (x : Reg) (kk : Byte) (s : State) : Host.Outcome State Fault Refusal :=
  .next (skipIf (s.getV x == kk) s)

/-- 4xkk `skip-ne-imm` (R124). -/
def execSkipNeImm (x : Reg) (kk : Byte) (s : State) : Host.Outcome State Fault Refusal :=
  .next (skipIf (s.getV x != kk) s)

/-- 5xy0 `skip-eq-reg` (R125). -/
def execSkipEqReg (x y : Reg) (s : State) : Host.Outcome State Fault Refusal :=
  .next (skipIf (s.getV x == s.getV y) s)

/-- 9xy0 `skip-ne-reg` (R126). -/
def execSkipNeReg (x y : Reg) (s : State) : Host.Outcome State Fault Refusal :=
  .next (skipIf (s.getV x != s.getV y) s)

/-- Bnnn `jump-indexed` (R127): always V0, a 16-bit sum, not reduced modulo 4096. -/
def execJumpIndexed (nnn : Address) (s : State) : Host.Outcome State Fault Refusal :=
  .next (s.setPc (widen (s.getV 0) + addressOperand nnn))

end Sys2Proof.Machine
end

