-- ==== Sys2Proof/Machine/Display.lean ====
section
/-!
DEFINITION. The framebuffer, the compositor and the display instructions (44_display.md).
-/
namespace Sys2Proof.Machine

/-- `FB[cx, cy]` (10_state.md R33). -/
def Framebuffer.cell (fb : Framebuffer) (cx : Fin 64) (cy : Fin 32) : Bool := (fb[cy])[cx]

/-- `FB[cx, cy] <- b`. -/
def Framebuffer.setCell (fb : Framebuffer) (cx : Fin 64) (cy : Fin 32) (b : Bool) : Framebuffer :=
  fb.set cy ((fb[cy]).set cx b)

/-- `Clear()` (R190). -/
def Framebuffer.clear : Framebuffer := Vector.replicate 32 (Vector.replicate 64 false)

/-- The framebuffer and the collision output while a sprite is drawn. -/
structure Canvas where
  fb        : Framebuffer
  collision : Bool
  deriving DecidableEq, Repr

/-- The column of bit j of a sprite at x: the coordinate wraps (R191). -/
def spriteColumn (x j : Nat) : Fin 64 := Fin.ofNat 64 (x + j)

/-- The row of sprite row r of a sprite at y: the coordinate wraps (R191). -/
def spriteRow (y r : Nat) : Fin 32 := Fin.ofNat 32 (y + r)

/-- One pass of the inner loop of R191: source bit `src` onto one cell. -/
def drawBit (c : Canvas) (cx : Fin 64) (cy : Fin 32) (src : Bool) : Canvas where
  fb := c.fb.setCell cx cy (c.fb.cell cx cy ^^ src)
  collision := c.collision || (src && c.fb.cell cx cy)

/-- The inner loop of R191: bits `j`, `j+1`, …, of one row byte, bit 7 of the byte the leftmost pixel. -/
def drawRow (x : Nat) (cy : Fin 32) (row : Byte) (c : Canvas) : Canvas :=
  (List.range 8).foldl (fun c j => drawBit c (spriteColumn x j) cy (row.getLsbD (7 - j))) c

/-- The outer loop of R191 from sprite row `r` on. -/
def drawRows (x y : Nat) (r : Nat) (c : Canvas) : List Byte → Canvas
  | [] => c
  | row :: rows => drawRows x y (r + 1) (drawRow x (spriteRow y r) row c) rows

/-- `DrawSprite(x, y, rows)` (R191). -/
def drawSprite (x y : Nat) (rows : List Byte) (fb : Framebuffer) : Canvas :=
  drawRows x y 0 ⟨fb, false⟩ rows

/-- 00E0 `clear-display` (R193): neither VF nor DIRTY is written. -/
def execClearDisplay (s : State) : Host.Outcome State Fault Refusal :=
  .next (s.setFb Framebuffer.clear)

/-- Dxyn `draw` (R194): Vx and Vy are read before anything is written. -/
def execDraw (x y : Reg) (n : RowCount) (s : State) : Host.Outcome State Fault Refusal :=
  match memRead s.mem (dataAddress s) n.val with
  | some rows =>
    let c := drawSprite (s.getV x).toNat (s.getV y).toNat rows s.fb
    .next (((s.setFb c.fb).setV vf (flagByte c.collision)).setDirty true)
  | none => raise .outOfBounds s

end Sys2Proof.Machine
end

