-- ==== Sys2Proof/Machine/IndexMemory.lean ====
section
/-!
DEFINITION. The index register and block memory (43_index_memory.md). Each access is one bus operation on the whole block;
I is not modified by an access (R171).
-/
namespace Sys2Proof.Machine

/-- Annn `load-index` (R170). -/
def execLoadIndex (nnn : Address) (s : State) : Host.Outcome State Fault Refusal :=
  .next (s.setI (addressOperand nnn))

/-- Fx1E `add-index` (R172): modulo 65536, with the warning when the new I is at or above the limit. -/
def execAddIndex (x : Reg) (s : State) : Host.Outcome State Fault Refusal :=
  let sum := s.i + widen (s.getV x)
  .next ((s.setI sum).setWarn (s.warn || decide (sum.toNat ≥ Config.indexWarnLimit)))

/-- Fx29 `load-font-index` (R173): Vx whole, not masked. -/
def execLoadFontIndex (x : Reg) (s : State) : Host.Outcome State Fault Refusal :=
  .next (s.setI (BitVec.ofNat 16 (Config.glyphStride * (s.getV x).toNat)))

/-- One `MemWrite` of a block at I. -/
def storeBlock (bytes : List Byte) (s : State) : Host.Outcome State Fault Refusal :=
  match memWrite s.mem (dataAddress s) bytes with
  | some m => .next (s.setMem m)
  | none => raise .outOfBounds s

/-- Fx33 `store-bcd` (R174). -/
def execStoreBcd (x : Reg) (s : State) : Host.Outcome State Fault Refusal :=
  storeBlock (decimalDigits (s.getV x)) s

/-- Fx55 `store-regs` (R175). -/
def execStoreRegs (x : Reg) (s : State) : Host.Outcome State Fault Refusal :=
  storeBlock (registersUpTo s x) s

/-- Fx65 `load-regs` (R176): all bytes are read before any register is written. -/
def execLoadRegs (x : Reg) (s : State) : Host.Outcome State Fault Refusal :=
  match memRead s.mem (dataAddress s) (x.val + 1) with
  | some bytes => .next (s.setRegisters (loadRegisters s.v bytes))
  | none => raise .outOfBounds s

end Sys2Proof.Machine
end

