-- ==== Sys2Proof/Machine/KeysTimers.lean ====
section
/-!
DEFINITION. Key and timer instructions (45_keys_timers.md).
-/
namespace Sys2Proof.Machine

/-- A skip on the state of key V[x]; an index without a cell raises KeyIndexOutOfRange (R202). -/
def skipOnKey (x : Reg) (c : Bool → Bool) (s : State) : Host.Outcome State Fault Refusal :=
  if h : (s.getV x).toNat < 16 then .next (skipIf (c s.key[(s.getV x).toNat]) s)
  else raise .keyIndexOutOfRange s

/-- Ex9E `skip-if-pressed` (R200). -/
def execSkipIfPressed (x : Reg) (s : State) : Host.Outcome State Fault Refusal :=
  skipOnKey x (fun down => down) s

/-- ExA1 `skip-if-not-pressed` (R201). -/
def execSkipIfNotPressed (x : Reg) (s : State) : Host.Outcome State Fault Refusal :=
  skipOnKey x (fun down => !down) s

/-- Fx07 `load-dt` (R205): DT after this step's timer phase. -/
def execLoadDt (x : Reg) (s : State) : Host.Outcome State Fault Refusal :=
  .next (s.setV x s.dt)

/-- Fx0A `wait-for-key` (R204): no key down rewinds PC, so that the next step executes it again. -/
def execWaitForKey (x : Reg) (s : State) : Host.Outcome State Fault Refusal :=
  match lowestKey s.key with
  | none => .next (s.setPc (s.pc - 2))
  | some k => .next (s.setV x (keyByte k))

/-- Fx15 `set-dt` (R206): TREF is not touched. -/
def execSetDt (x : Reg) (s : State) : Host.Outcome State Fault Refusal :=
  .next (s.setDt (s.getV x))

/-- Fx18 `set-st` (R207). -/
def execSetSt (x : Reg) (s : State) : Host.Outcome State Fault Refusal :=
  .next (s.setSt (s.getV x))

end Sys2Proof.Machine
end

