-- ==== Sys2Proof/Machine/Transactions.lean ====
section
/-!
DEFINITION. The host's transactions (46_host_interface.md): each is atomic and falls between steps (R231). The step
itself is in Cycle.lean.
-/
namespace Sys2Proof.Machine

/-- The error names of 60_exceptions.md R240, in the order of their codes; RomTooLarge is raised by `load_rom` only. -/
inductive ExecutionError where
  | outOfBounds
  | stackOverflow
  | stackUnderflow
  | programCounterOutOfRange
  | invalidInstruction
  | romTooLarge
  | keyIndexOutOfRange
  deriving DecidableEq, Repr

/-- The codes of R240 (decision D14). -/
def errorCode : ExecutionError → Nat
  | .outOfBounds => 1
  | .stackOverflow => 2
  | .stackUnderflow => 3
  | .programCounterOutOfRange => 4
  | .invalidInstruction => 5
  | .romTooLarge => 6
  | .keyIndexOutOfRange => 7

/-- The error a fault reports on the `result` port; none for the model's own stop (log 8). -/
def reportedError : Fault → Option ExecutionError
  | .outOfBounds _ => some .outOfBounds
  | .stackOverflow _ => some .stackOverflow
  | .stackUnderflow _ => some .stackUnderflow
  | .programCounterOutOfRange _ => some .programCounterOutOfRange
  | .invalidInstruction _ => some .invalidInstruction
  | .keyIndexOutOfRange _ => some .keyIndexOutOfRange
  | .stackPointerBeyondStack _ => none

/-- The `result` port of a finished step (46_host_interface.md R220, 60_exceptions.md R240): 0 for Ok, else the error's code.
The model's own stop (log 8) and a refusal have none. -/
def resultCode : Host.Outcome State Fault Refusal → Option Nat
  | .next _ => some 0
  | .fault f => (reportedError f).map errorCode
  | .refused _ => none

/-- The `load_result` port: 0 for Ok, else the error's code. -/
def loadResultCode (error : Option ExecutionError) : Nat := (error.map errorCode).getD 0

/-- The state a fault leaves behind (40_step_cycle.md R108). A host that goes on after an error (60_exceptions.md R251)
goes on from it. -/
def stateLeft : Fault → State
  | .outOfBounds s => s
  | .stackOverflow s => s
  | .stackUnderflow s => s
  | .programCounterOutOfRange s => s
  | .invalidInstruction s => s
  | .keyIndexOutOfRange s => s
  | .stackPointerBeyondStack s => s

/-- `set_key(k)` (R224). -/
def setKey (k : Fin 16) (s : State) : State := s.setKeyCell k true

/-- `clear_key(k)` (R225). -/
def clearKey (k : Fin 16) (s : State) : State := s.setKeyCell k false

/-- `load_rom(bytes)` (R226): an oversized image is rejected before any memory changes; nothing but memory changes. -/
def loadRom (bytes : List Byte) (s : State) : Option ExecutionError × State :=
  if bytes.length > Config.romMax then (some .romTooLarge, s)
  else (none, s.setMem (s.mem.writeBytes Config.entryPc bytes))

/-- `is_draw_pending()` (R227). -/
def isDrawPending (s : State) : Bool := s.dirty

/-- `snapshot()` (R229, 44_display.md R192): cell (cx, cy) at position `cy * 64 + cx` (decision D17). -/
def snapshot (s : State) : Vector Bool (32 * 64) := s.fb.flatten

/-- `consume_framebuffer()` (R228): the cells, and DIRTY cleared. -/
def consumeFramebuffer (s : State) : Vector Bool (32 * 64) × State := (snapshot s, s.setDirty false)

/-- `reset(now)` with the contents of the reserved region as an argument (R230, 10_state.md R40, decision D5). -/
def resetWith (image : List Byte) (now : Nat) : State :=
  ((State.reset.setInputs now 0).setTref now).setMem
    (State.reset.mem.writeBytes 0 (image.take Config.reservedSize))

/-- `reset(now)` of this hardware (R230): a fresh machine. Only the model's own counter of drawn inputs is kept, so that
the inputs after a reset are not those before it. -/
def resetMachine (now : Nat) (s : State) : State := (resetWith Config.reservedImage now).setStepNo s.stepNo

/-- The host's transactions other than a step (R232). -/
inductive Transaction where
  | reset (now : Nat)
  | loadRom (bytes : List Byte)
  | setKey (k : Fin 16)
  | clearKey (k : Fin 16)
  | isDrawPending
  | consumeFramebuffer
  | snapshot
  deriving DecidableEq, Repr

/-- What the host gets back (R232). -/
inductive Reply where
  | nothing
  | loadResult (error : Option ExecutionError)
  | pending (dirty : Bool)
  | cells (fb : Vector Bool (32 * 64))
  deriving DecidableEq, Repr

/-- One transaction: the reply and the state after it. -/
def transact : Transaction → State → Reply × State
  | .reset now, s => (.nothing, resetMachine now s)
  | .loadRom bytes, s => (.loadResult (loadRom bytes s).1, (loadRom bytes s).2)
  | .setKey k, s => (.nothing, setKey k s)
  | .clearKey k, s => (.nothing, clearKey k s)
  | .isDrawPending, s => (.pending (isDrawPending s), s)
  | .consumeFramebuffer, s => (.cells (consumeFramebuffer s).1, (consumeFramebuffer s).2)
  | .snapshot, s => (.cells (snapshot s), s)

/-- A key transaction: `set_key` or `clear_key` (R224, R225). -/
def isKeyTransaction : Transaction → Bool
  | .reset _ => false
  | .loadRom _ => false
  | .setKey _ => true
  | .clearKey _ => true
  | .isDrawPending => false
  | .consumeFramebuffer => false
  | .snapshot => false

/-- Transactions one after the other, in order, with no step between them (R231). -/
def transactAll : List Transaction → State → State
  | [], s => s
  | a :: as, s => transactAll as (transact a s).2

end Sys2Proof.Machine
end

