-- ==== Sys2Proof/Machine/Cycle.lean ====
section
/-!
DEFINITION. The step cycle with its inputs explicit (40_step_cycle.md R100), and histories of steps and host transactions
(46_host_interface.md R231).
-/
namespace Sys2Proof.Machine

/-- The start of a step: the inputs are sampled and `warn` is false (R100). -/
def sampleInputs (now : Nat) (rand : Byte) (s : State) : State := (s.setInputs now rand).setWarn false

/-- Decode and execute the word in IR, then the post-check (R103 to R106). An unrecognised word raises
InvalidInstruction and no post-check follows (R105). -/
def executeWord (s : State) : Host.Outcome State Fault Refusal :=
  match decodeWord s.ir with
  | .ok i => postCheck (exec i s)
  | .error _ => raise .invalidInstruction s

/-- `step(now, rand)` (R100, R223): timer phase, fetch, decode, execute, post-check. A failed fetch raises OutOfBounds
with PC and IR unchanged (R102). -/
def stepWith (now : Nat) (rand : Byte) (s : State) : Host.Outcome State Fault Refusal :=
  match fetch (timerPhase (sampleInputs now rand s)) with
  | some t => executeWord t
  | none => raise .outOfBounds (timerPhase (sampleInputs now rand s))

/-- The `now` of the next step: it never decreases (R221), and how far it moves is free (log 2). -/
def nextNow (s : State) : Nat := s.now + Config.elapsedUs s.stepNo

/-- The `rand` of the next step: free (log 1). -/
def nextRand (s : State) : Byte := Config.randomByte s.stepNo

/-- One step with inputs drawn from the free values, and the counter moved on. -/
def stepFree (s : State) : Host.Outcome State Fault Refusal :=
  stepWith (nextNow s) (nextRand s) (s.setStepNo (s.stepNo + 1))

/-- One element of a history: a step with its inputs, or a host transaction (R231). -/
inductive Event where
  | step (now : Nat) (rand : Byte)
  | host (t : Transaction)
  deriving DecidableEq, Repr

/-- One element of a history carried out. -/
def event : Event → State → Host.Outcome State Fault Refusal
  | .step now rand, s => stepWith now rand s
  | .host t, s => .next (transact t s).2

/-- A history from a state, ending at the first error (60_exceptions.md R252). -/
def history : List Event → State → Host.Outcome State Fault Refusal
  | [], s => .next s
  | e :: es, s =>
    match event e s with
    | .next t => history es t
    | .fault f => .fault f
    | .refused r => .refused r

end Sys2Proof.Machine
end

