-- ==== Sys2Proof/Machine/Step.lean ====
section
/-!
DEFINITION. One step of the machine, and a state whose next step fetches a given instruction.
-/
namespace Sys2Proof.Machine

/-- One `step` of the core (40_step_cycle.md R100), its inputs drawn from Config's free values (log 1, log 2). -/
def step (s : State) : Host.Outcome State Fault Refusal := stepFree s

/-- The state with the instruction of one opcode-table row stored at PC, where `step` fetches next. -/
def State.withFetchWord (s : State) (nbits w : Nat) : State := placeWordAtPc s (tableWord nbits w)

end Sys2Proof.Machine
end

