-- ==== Sys2Proof/Safety.lean ====
section
/-!
DEFINITION. The terms claims use: the invariants of 10_state.md R41, legal histories, idle and clean launch states, what an
instruction may write (R42), and a change carried through an outcome.
-/
namespace Sys2Proof.Machine

/-! ### Invariants (10_state.md R41) -/

/-- What holds in every state reachable by steps and host transactions, the state an error leaves included. That every
cell is 0 or 1 and every register fits its width is in the types. -/
abbrev State.Bounded (s : State) : Prop :=
  s.mem.wf = true ∧ s.sp.toNat ≤ 16 ∧ (∀ j : Fin 16, s.stk[j].toNat ≤ 4096) ∧ s.pc.toNat ≤ 4350 ∧ s.tref ≤ s.now

/-- What holds between steps that end without an error: PC is an address of memory as well. -/
abbrev State.Inv (s : State) : Prop := s.Bounded ∧ s.pc.toNat ≤ 4095

/-! ### Histories (46_host_interface.md R221, R231) -/

/-- The host keeps its obligation: `now` never decreases along the history. -/
def clockNeverDecreases : Nat → List Event → Bool
  | _, [] => true
  | last, .step now _ :: es => decide (last ≤ now) && clockNeverDecreases now es
  | last, .host (.reset now) :: es => decide (last ≤ now) && clockNeverDecreases now es
  | last, .host _ :: es => clockNeverDecreases last es

/-- The run ends badly: at a step whose result is an error (70_reset_and_hazards.md R288, 60_exceptions.md R252). -/
def EndsBadly (es : List Event) (s : State) : Prop := ∃ f, history es s = .fault f

/-- The word that stands at PC. -/
def wordAtPc (s : State) : Word := wordOfBytes (s.mem.readByte s.pc.toNat) (s.mem.readByte (s.pc.toNat + 1))

/-- The state in which the execute phase of a step finds the machine, once the fetch has succeeded. -/
def afterFetch (now : Nat) (rand : Byte) (s : State) : State :=
  ((timerPhase (sampleInputs now rand s)).setIr (wordAtPc s)).setPc (s.pc + 2)

/-- IDLE (R288): the next instruction is a `jump` to its own address. -/
abbrev Idle (s : State) : Prop := s.pc.toNat + 2 ≤ 4096 ∧ (wordAtPc s).toNat = 0x1000 + s.pc.toNat

/-- A clean launch state for a ROM image (70_reset_and_hazards.md R281): the image fits, and the state is a reset at `now`
followed by its load, which reports no error, and any number of key transactions. -/
def CleanLaunch (rom : List Byte) (now : Nat) (t : State) : Prop :=
  rom.length ≤ Config.romMax ∧ ∃ (s u : State) (keys : List Transaction),
    loadRom rom (resetMachine now s) = (none, u) ∧ keys.all isKeyTransaction = true ∧ t = transactAll keys u

/-! ### What an instruction may write (10_state.md R42) -/

/-- Parts of the state: which registers, bytes of memory and stack entries, and which of the rest. -/
structure Parts where
  v     : Reg → Bool := fun _ => false
  mem   : Nat → Bool := fun _ => false
  stk   : Fin 16 → Bool := fun _ => false
  i     : Bool := false
  pc    : Bool := false
  sp    : Bool := false
  dt    : Bool := false
  st    : Bool := false
  fb    : Bool := false
  dirty : Bool := false
  warn  : Bool := false

/-- The second state agrees with the first outside the parts. TREF, KEY, IR and the model's ports are never among them. -/
def UnchangedOutside (p : Parts) (s t : State) : Prop :=
  (∀ k : Reg, p.v k = false → t.getV k = s.getV k) ∧
  (∀ a : Nat, p.mem a = false → t.mem.readByte a = s.mem.readByte a) ∧
  (∀ j : Fin 16, p.stk j = false → t.stk[j] = s.stk[j]) ∧
  (p.i = false → t.i = s.i) ∧ (p.pc = false → t.pc = s.pc) ∧ (p.sp = false → t.sp = s.sp) ∧
  (p.dt = false → t.dt = s.dt) ∧ (p.st = false → t.st = s.st) ∧ (p.fb = false → t.fb = s.fb) ∧
  (p.dirty = false → t.dirty = s.dirty) ∧ (p.warn = false → t.warn = s.warn) ∧
  t.tref = s.tref ∧ t.key = s.key ∧ t.ir = s.ir ∧ t.now = s.now ∧ t.rand = s.rand ∧ t.stepNo = s.stepNo

/-- The "w" entries of R42, and the entry of the stack and the bytes of memory they fall on in the state before. -/
def mayWrite : Instr → State → Parts
  | .clearDisplay, _ => { fb := true }
  | .ret, _ => { pc := true, sp := true }
  | .jump _, _ => { pc := true }
  | .call _, s => { pc := true, sp := true, stk := fun j => j.val == s.sp.toNat }
  | .skipEqImm _ _, _ => { pc := true }
  | .skipNeImm _ _, _ => { pc := true }
  | .skipEqReg _ _, _ => { pc := true }
  | .loadImm x _, _ => { v := fun k => k == x }
  | .addImm x _, _ => { v := fun k => k == x }
  | .move x _, _ => { v := fun k => k == x }
  | .or x _, _ => { v := fun k => k == x }
  | .and x _, _ => { v := fun k => k == x }
  | .xor x _, _ => { v := fun k => k == x }
  | .add x _, _ => { v := fun k => k == x || k == vf }
  | .sub x _, _ => { v := fun k => k == x || k == vf }
  | .shiftRight x _, _ => { v := fun k => k == x || k == vf }
  | .subn x _, _ => { v := fun k => k == x || k == vf }
  | .shiftLeft x _, _ => { v := fun k => k == x || k == vf }
  | .skipNeReg _ _, _ => { pc := true }
  | .loadIndex _, _ => { i := true }
  | .jumpIndexed _, _ => { pc := true }
  | .random x _, _ => { v := fun k => k == x }
  | .draw _ _ _, _ => { v := fun k => k == vf, fb := true, dirty := true }
  | .skipIfPressed _, _ => { pc := true }
  | .skipIfNotPressed _, _ => { pc := true }
  | .loadDt x, _ => { v := fun k => k == x }
  | .waitForKey x, s =>
    if s.key.any (fun down => down) then { v := fun k => k == x } else { pc := true }
  | .setDt _, _ => { dt := true }
  | .setSt _, _ => { st := true }
  | .addIndex _, _ => { i := true, warn := true }
  | .loadFontIndex _, _ => { i := true }
  | .storeBcd _, s => { mem := fun a => decide (dataAddress s ≤ a) && decide (a < dataAddress s + 3) }
  | .storeRegs x, s => { mem := fun a => decide (dataAddress s ≤ a) && decide (a < dataAddress s + (x.val + 1)) }
  | .loadRegs x, _ => { v := fun k => decide (k ≤ x) }

/-- The families of files 41 to 45. -/
inductive Family where
  | controlFlow
  | alu
  | indexMemory
  | display
  | keysTimers
  deriving DecidableEq, Repr

/-- The file of spec/ whose rules hold the instruction (30_encoding.md R84). -/
def familyOf : Instr → Family
  | .clearDisplay => .display
  | .ret => .controlFlow
  | .jump _ => .controlFlow
  | .call _ => .controlFlow
  | .skipEqImm _ _ => .controlFlow
  | .skipNeImm _ _ => .controlFlow
  | .skipEqReg _ _ => .controlFlow
  | .loadImm _ _ => .alu
  | .addImm _ _ => .alu
  | .move _ _ => .alu
  | .or _ _ => .alu
  | .and _ _ => .alu
  | .xor _ _ => .alu
  | .add _ _ => .alu
  | .sub _ _ => .alu
  | .shiftRight _ _ => .alu
  | .subn _ _ => .alu
  | .shiftLeft _ _ => .alu
  | .skipNeReg _ _ => .controlFlow
  | .loadIndex _ => .indexMemory
  | .jumpIndexed _ => .controlFlow
  | .random _ _ => .alu
  | .draw _ _ _ => .display
  | .skipIfPressed _ => .keysTimers
  | .skipIfNotPressed _ => .keysTimers
  | .loadDt _ => .keysTimers
  | .waitForKey _ => .keysTimers
  | .setDt _ => .keysTimers
  | .setSt _ => .keysTimers
  | .addIndex _ => .indexMemory
  | .loadFontIndex _ => .indexMemory
  | .storeBcd _ => .indexMemory
  | .storeRegs _ => .indexMemory
  | .loadRegs _ => .indexMemory

/-! ### A change of the state carried through an outcome -/

/-- The same error with the state it leaves changed. -/
def mapFault (g : State → State) : Fault → Fault
  | .outOfBounds s => .outOfBounds (g s)
  | .stackOverflow s => .stackOverflow (g s)
  | .stackUnderflow s => .stackUnderflow (g s)
  | .programCounterOutOfRange s => .programCounterOutOfRange (g s)
  | .invalidInstruction s => .invalidInstruction (g s)
  | .keyIndexOutOfRange s => .keyIndexOutOfRange (g s)
  | .stackPointerBeyondStack s => .stackPointerBeyondStack (g s)

/-- The same outcome with the state it leaves changed. -/
def mapOutcome (g : State → State) : Host.Outcome State Fault Refusal → Host.Outcome State Fault Refusal
  | .next s => .next (g s)
  | .fault f => .fault (mapFault g f)
  | .refused r => .refused r

end Sys2Proof.Machine
end

