-- ==== Sys2Proof/Certificates/Slice0/Obligations.lean ====
section
/-!
DEFINITION. The statements for the provers. Each docstring names the rule or section of spec/ the statement rests on, and
says where it rests on a decision of the spec (92_eei_decisions.md) or on a choice of this model (notes/assumptions).
-/

open Sys2Proof Sys2Proof.Machine

/-! ### Encoding (30_encoding.md) -/

/-- Words that the spec writes out with their instruction (R84, R89's table, 41 to 45), and three it rejects. That 0x0000 and
0x5121 are rejected is the spec's decision D6 (log 12). -/
def Obligations.DecodeReadsSpecWords : Prop :=
  decodeWord 0x00E0 = .ok .clearDisplay ∧ decodeWord 0x00EE = .ok .ret ∧
  decodeWord 0x12A0 = .ok (.jump 0x2A0) ∧ decodeWord 0x637F = .ok (.loadImm 3 0x7F) ∧
  decodeWord 0x8124 = .ok (.add 1 2) ∧ decodeWord 0x8406 = .ok (.shiftRight 4 0) ∧
  decodeWord 0xD015 = .ok (.draw 0 1 5) ∧ decodeWord 0xF555 = .ok (.storeRegs 5) ∧
  decodeWord 0xE59E = .ok (.skipIfPressed 5) ∧ decodeWord 0xF21E = .ok (.addIndex 2) ∧
  decodeWord 0xFFFF = .error (.unrecognised 0xFFFF) ∧ decodeWord 0x0000 = .error (.unrecognised 0x0000) ∧
  decodeWord 0x5121 = .error (.unrecognised 0x5121)

/-- Decoding the bytes of an instruction, whatever bytes follow, gives back the instruction with every operand (R80 to
R84). -/
def Obligations.DecodeOfEncodeIsTheInstruction : Prop :=
  ∀ (i : Instr) (rest : List Byte), decode (encode i ++ rest) = .ok (i, rest)

/-- A word that decodes is the word its instruction encodes to: no bit of a recognised word is dropped, the ignored `y` of
the shifts included (R81, R86). -/
def Obligations.EncodeOfDecodeIsTheWord : Prop :=
  ∀ (w : Word) (i : Instr), decodeWord w = .ok i → encodeWord i = w

/-- A word that decodes is selected by exactly one row of the opcode table, the row of its instruction's mnemonic; a word
that does not is selected by none (R83, R84; the strictness is the spec's decision D6). -/
def Obligations.DecodeFollowsTheOneMatchingRow : Prop :=
  ∀ w : Word,
    (∀ i, decodeWord w = .ok i →
      (opcodeTable.filter (fun r => r.selects w)).map OpcodeRow.mnemonic = [i.mnemonic]) ∧
    (∀ e, decodeWord w = .error e → opcodeTable.filter (fun r => r.selects w) = [])

/-- The unrecognised words are those that R85's table lists, by class, `n` and `kk` as numbers (decision D6). -/
def Obligations.UnrecognisedWordsAreThoseListed : Prop :=
  ∀ w : Word, decodeWord w = .error (.unrecognised w) ↔
    (w.toNat / 4096 = 0x0 ∧ w ≠ 0x00E0 ∧ w ≠ 0x00EE) ∨
    (w.toNat / 4096 = 0x5 ∧ w.toNat % 16 ≠ 0) ∨
    (w.toNat / 4096 = 0x8 ∧ w.toNat % 16 ∈ [0x8, 0x9, 0xA, 0xB, 0xC, 0xD, 0xF]) ∨
    (w.toNat / 4096 = 0x9 ∧ w.toNat % 16 ≠ 0) ∨
    (w.toNat / 4096 = 0xE ∧ w.toNat % 256 ∉ [0x9E, 0xA1]) ∨
    (w.toNat / 4096 = 0xF ∧ w.toNat % 256 ∉ [0x07, 0x0A, 0x15, 0x18, 0x1E, 0x29, 0x33, 0x55, 0x65])

/-! ### Memory (00_scope.md R10, 20_memory.md) -/

/-- `MemRead` and `MemWrite` (R10, R52): each fails exactly when the access would run past byte 4095, the sum unbounded; a
read answers the n bytes lowest address first; a write stores each byte at its address and changes no other. -/
def Obligations.MemReadAndMemWriteAreBoundedBlocks : Prop :=
  (∀ (m : Memory) (addr n : Nat), (memRead m addr n = none ↔ addr + n > 4096) ∧
    (addr + n ≤ 4096 → ∃ bytes, memRead m addr n = some bytes ∧ bytes.length = n ∧
      ∀ k < n, bytes[k]? = some (m.readByte (addr + k)))) ∧
  (∀ (m : Memory) (addr : Nat) (bytes : List Byte), (memWrite m addr bytes = none ↔ addr + bytes.length > 4096) ∧
    (addr + bytes.length ≤ 4096 → ∃ m', memWrite m addr bytes = some m' ∧
      (∀ k < bytes.length, bytes[k]? = some (m'.readByte (addr + k))) ∧
      ∀ a, a < addr ∨ addr + bytes.length ≤ a → m'.readByte a = m.readByte a))

/-- A fetch is big-endian (R56): IR = MEM[PC] * 256 + MEM[PC+1], the first byte the high byte. -/
def Obligations.FetchIsBigEndian : Prop :=
  ∀ s : State, s.pc.toNat + 2 ≤ 4096 → ∃ t, fetch s = some t ∧
    t.ir.toNat = (s.mem.readByte s.pc.toNat).toNat * 256 + (s.mem.readByte (s.pc.toNat + 1)).toNat ∧
    t.ir.toNat / 256 = (s.mem.readByte s.pc.toNat).toNat ∧
    t.ir.toNat % 256 = (s.mem.readByte (s.pc.toNat + 1)).toNat

/-- Self-modifying code takes effect at once (R64): the fetch that follows a `store-regs` over the next instruction, at
offset k of the block, reads the two registers just stored. -/
def Obligations.FetchSeesTheStoreOfTheStepBefore : Prop :=
  ∀ (x : Reg) (s t : State) (k : Nat) (hk : k + 1 < 16), exec (.storeRegs x) s = .next t →
    t.pc.toNat = s.i.toNat + k → k + 1 ≤ x.val →
    ∃ u, fetch t = some u ∧ u.ir = wordOfBytes s.v[k] s.v[k + 1]

/-! ### Loads, logic and arithmetic (42_alu.md) -/

/-- `load-imm`, `move`, `or`, `and`, `xor` (R140, R142 to R145): the destination's new value, no flag (VF changes only as
the destination), no error, and the encoding's fixed bits. -/
def Obligations.LoadMoveAndLogicResults : Prop :=
  ∀ (x y : Reg) (kk : Byte) (s : State),
    (∃ t, exec (.loadImm x kk) s = .next t ∧ t.getV x = kk ∧ ∀ k, k ≠ x → t.getV k = s.getV k) ∧
    (∃ t, exec (.move x y) s = .next t ∧ t.getV x = s.getV y ∧ ∀ k, k ≠ x → t.getV k = s.getV k) ∧
    (∃ t, exec (.or x y) s = .next t ∧ t.getV x = s.getV x ||| s.getV y ∧ ∀ k, k ≠ x → t.getV k = s.getV k) ∧
    (∃ t, exec (.and x y) s = .next t ∧ t.getV x = s.getV x &&& s.getV y ∧ ∀ k, k ≠ x → t.getV k = s.getV k) ∧
    (∃ t, exec (.xor x y) s = .next t ∧ t.getV x = s.getV x ^^^ s.getV y ∧ ∀ k, k ≠ x → t.getV k = s.getV k) ∧
    (encodeWord (.loadImm x kk) &&& 0xF000 = 0x6000 ∧ encodeWord (.move x y) &&& 0xF00F = 0x8000 ∧
     encodeWord (.or x y) &&& 0xF00F = 0x8001 ∧ encodeWord (.and x y) &&& 0xF00F = 0x8002 ∧
     encodeWord (.xor x y) &&& 0xF00F = 0x8003)

/-- `add-imm` (R141): the sum modulo 256, VF unchanged even past 255 unless it is the destination, no error, and the
encoding's fixed bits. -/
def Obligations.AddImmWrapsWithoutFlag : Prop :=
  ∀ (x : Reg) (kk : Byte) (s : State),
    (∃ t, exec (.addImm x kk) s = .next t ∧ (t.getV x).toNat = ((s.getV x).toNat + kk.toNat) % 256 ∧
      (x ≠ vf → t.getV vf = s.getV vf) ∧ ∀ k, k ≠ x → t.getV k = s.getV k) ∧
    encodeWord (.addImm x kk) &&& 0xF000 = 0x7000

/-- The exact results of R164's table for `add`, `sub` and `subn`, where the destination and the source are not VF: the
result modulo 256 and the flag as numbers, all on the values before the instruction. -/
def Obligations.AddSubSubnOutsideVf : Prop :=
  ∀ (x y : Reg) (s : State), x ≠ vf → y ≠ vf →
    (∃ t, exec (.add x y) s = .next t ∧
      (t.getV x).toNat = ((s.getV x).toNat + (s.getV y).toNat) % 256 ∧
      (t.getV vf).toNat = if (s.getV x).toNat + (s.getV y).toNat > 255 then 1 else 0) ∧
    (∃ t, exec (.sub x y) s = .next t ∧
      (t.getV x).toNat = (if (s.getV x).toNat ≥ (s.getV y).toNat then (s.getV x).toNat - (s.getV y).toNat
        else (s.getV x).toNat + 256 - (s.getV y).toNat) ∧
      (t.getV vf).toNat = if (s.getV x).toNat > (s.getV y).toNat then 1 else 0) ∧
    (∃ t, exec (.subn x y) s = .next t ∧
      (t.getV x).toNat = (if (s.getV y).toNat ≥ (s.getV x).toNat then (s.getV y).toNat - (s.getV x).toNat
        else (s.getV y).toNat + 256 - (s.getV x).toNat) ∧
      (t.getV vf).toNat = if (s.getV y).toNat > (s.getV x).toNat then 1 else 0)

/-- The exact results of R164's table for the shifts, where the destination is not VF; they do not depend on `y` (R86). -/
def Obligations.ShiftsOutsideVfIgnoreY : Prop :=
  ∀ (x y : Reg) (s : State), x ≠ vf →
    (∃ t, exec (.shiftRight x y) s = .next t ∧ (t.getV x).toNat = (s.getV x).toNat / 2 ∧
      (t.getV vf).toNat = (s.getV x).toNat % 2) ∧
    (∃ t, exec (.shiftLeft x y) s = .next t ∧ (t.getV x).toNat = (s.getV x).toNat * 2 % 256 ∧
      (t.getV vf).toNat = if (s.getV x).toNat ≥ 128 then 1 else 0)

/-- The closed forms of R149, R150 and R152 where VF is the destination, the source or both (corner cases (iii) to (v)).
They rest on the spec's decision D7, the two writes in sequence. -/
def Obligations.AddSubSubnNamingVf : Prop :=
  ∀ (x : Reg) (s : State), x ≠ vf →
    (∃ t, exec (.add vf x) s = .next t ∧ (t.getV vf).toNat =
      ((if (s.getV vf).toNat + (s.getV x).toNat > 255 then 1 else 0) + (s.getV x).toNat) % 256) ∧
    (∃ t, exec (.add x vf) s = .next t ∧
      (t.getV vf).toNat = (if (s.getV x).toNat + (s.getV vf).toNat > 255 then 1 else 0) ∧
      (t.getV x).toNat = ((s.getV x).toNat + (t.getV vf).toNat) % 256) ∧
    (∃ t, exec (.add vf vf) s = .next t ∧ (t.getV vf).toNat = if (s.getV vf).toNat ≥ 128 then 2 else 0) ∧
    (∃ t, exec (.sub vf x) s = .next t ∧ (t.getV vf).toNat =
      ((if (s.getV vf).toNat > (s.getV x).toNat then 1 else 0) + 256 - (s.getV x).toNat) % 256) ∧
    (∃ t, exec (.sub x vf) s = .next t ∧
      (t.getV vf).toNat = (if (s.getV x).toNat > (s.getV vf).toNat then 1 else 0) ∧
      (t.getV x).toNat = ((s.getV x).toNat + 256 - (t.getV vf).toNat) % 256) ∧
    (∃ t, exec (.sub vf vf) s = .next t ∧ t.getV vf = 0) ∧
    (∃ t, exec (.subn vf x) s = .next t ∧ (t.getV vf).toNat =
      ((s.getV x).toNat + 256 - (if (s.getV x).toNat > (s.getV vf).toNat then 1 else 0)) % 256) ∧
    (∃ t, exec (.subn x vf) s = .next t ∧
      (t.getV vf).toNat = (if (s.getV vf).toNat > (s.getV x).toNat then 1 else 0) ∧
      (t.getV x).toNat = ((t.getV vf).toNat + 256 - (s.getV x).toNat) % 256) ∧
    (∃ t, exec (.subn vf vf) s = .next t ∧ t.getV vf = 0)

/-- The shifts of VF itself (R151 (ii), R153 (ii)): 0, and twice the bit shifted out. They rest on decision D7. -/
def Obligations.ShiftsOfVf : Prop :=
  ∀ (y : Reg) (s : State),
    (∃ t, exec (.shiftRight vf y) s = .next t ∧ t.getV vf = 0) ∧
    (∃ t, exec (.shiftLeft vf y) s = .next t ∧ (t.getV vf).toNat = if (s.getV vf).toNat ≥ 128 then 2 else 0)

/-- `random` (R163): the step's random byte masked with kk, whatever the byte is (the byte is the free input of log 1; that
it is an input is decision D18); no bit is set that kk has clear. -/
def Obligations.RandomMasksTheInputByte : Prop :=
  ∀ (x : Reg) (kk : Byte) (s : State), ∃ t, exec (.random x kk) s = .next t ∧
    ∀ b < 8, (t.getV x).getLsbD b = true ↔ (s.rand.getLsbD b = true ∧ kk.getLsbD b = true)

/-! ### Control flow (41_control_flow.md) -/

/-- `jump` and `jump-indexed` (R121, R127): PC as a number, the second never reduced (decision D28). -/
def Obligations.JumpsSetPc : Prop :=
  ∀ (nnn : Address) (s : State),
    (∃ t, exec (.jump nnn) s = .next t ∧ t.pc.toNat = nnn.toNat) ∧
    (∃ t, exec (.jumpIndexed nnn) s = .next t ∧ t.pc.toNat = (s.getV 0).toNat + nnn.toNat)

/-- The four register skips (R123 to R126, R128): PC moves on by 2 exactly when the condition holds. -/
def Obligations.RegisterSkipsMovePc : Prop :=
  ∀ (x y : Reg) (kk : Byte) (s : State), s.pc.toNat ≤ 4096 →
    (∃ t, exec (.skipEqImm x kk) s = .next t ∧
      t.pc.toNat = if (s.getV x).toNat = kk.toNat then s.pc.toNat + 2 else s.pc.toNat) ∧
    (∃ t, exec (.skipNeImm x kk) s = .next t ∧
      t.pc.toNat = if (s.getV x).toNat = kk.toNat then s.pc.toNat else s.pc.toNat + 2) ∧
    (∃ t, exec (.skipEqReg x y) s = .next t ∧
      t.pc.toNat = if (s.getV x).toNat = (s.getV y).toNat then s.pc.toNat + 2 else s.pc.toNat) ∧
    (∃ t, exec (.skipNeReg x y) s = .next t ∧
      t.pc.toNat = if (s.getV x).toNat = (s.getV y).toNat then s.pc.toNat else s.pc.toNat + 2)

/-- `call` with room on the stack (R122): the advanced PC is stacked in entry SP, SP counts one more, PC is nnn, every other
entry as before. That SP counts entries, the entry written first, is the spec's decision D8 (log 13). -/
def Obligations.CallStacksTheReturnAddress : Prop :=
  ∀ (nnn : Address) (s : State), s.sp.toNat < 16 →
    ∃ t, exec (.call nnn) s = .next t ∧ t.stk[s.sp.toNat]? = some s.pc ∧ t.sp.toNat = s.sp.toNat + 1 ∧
      t.pc.toNat = nnn.toNat ∧ ∀ j : Fin 16, j.val ≠ s.sp.toNat → t.stk[j] = s.stk[j]

/-- `return` with a stacked address (R120): SP counts one less, PC is the newest entry, and no entry is erased (R26). That SP
counts down before the entry is read is the spec's decision D8, and that the 16-bit entry stays decision D30 (log 13). -/
def Obligations.ReturnPopsTheNewestAddress : Prop :=
  ∀ s : State, 0 < s.sp.toNat → s.sp.toNat ≤ 16 →
    ∃ t, exec .ret s = .next t ∧ t.sp.toNat = s.sp.toNat - 1 ∧ s.stk[s.sp.toNat - 1]? = some t.pc ∧ t.stk = s.stk

/-- The two stack errors (R242, R243): raised exactly at SP = 16 and SP = 0, and nothing is changed (decision D8). -/
def Obligations.StackErrorsChangeNothing : Prop :=
  ∀ (nnn : Address) (s : State),
    (s.sp.toNat = 16 ↔ exec (.call nnn) s = .fault (.stackOverflow s)) ∧
    (s.sp.toNat = 0 ↔ exec .ret s = .fault (.stackUnderflow s))

/-- A `return` brings PC back to the instruction after the `call`, and SP back, from any state that keeps the stack the call
left: whatever else the routine did. -/
def Obligations.ReturnUndoesCall : Prop :=
  ∀ (nnn : Address) (s t u : State), exec (.call nnn) s = .next t → u.stk = t.stk → u.sp = t.sp →
    ∃ r, exec .ret u = .next r ∧ r.pc = s.pc ∧ r.sp = s.sp

/-! ### Index register and block memory (43_index_memory.md) -/

/-- `load-index` (R170): I is nnn zero-extended, in every state, and the encoding's fixed bits. -/
def Obligations.LoadIndexSetsI : Prop :=
  ∀ (nnn : Address) (s : State),
    (∃ t, exec (.loadIndex nnn) s = .next t ∧ t.i.toNat = nnn.toNat ∧ t.i.toNat ≤ 4095 ∧
      ∀ k : Reg, t.getV k = s.getV k) ∧
    encodeWord (.loadIndex nnn) &&& 0xF000 = 0xA000

/-- `add-index` and `load-font-index` (R172, R173): I as a number; the warning exactly when the new I is 4096 or more (the
wrap at 65536 and the threshold are decision D10). At the start of a step `warn` is false. -/
def Obligations.IndexRegisterResults : Prop :=
  ∀ (x : Reg) (s : State),
    (∃ t, exec (.addIndex x) s = .next t ∧ t.i.toNat = (s.i.toNat + (s.getV x).toNat) % 65536 ∧
      (t.warn = true ↔ s.warn = true ∨ 4096 ≤ t.i.toNat)) ∧
    (∃ t, exec (.loadFontIndex x) s = .next t ∧ t.i.toNat = 5 * (s.getV x).toNat)

/-- `store-bcd` (R174): where the three bytes exist, they become the decimal digits of Vx, hundreds first, and no other byte
changes, nor I, nor any register, VF included; otherwise OutOfBounds with nothing changed; and the encoding's fixed
bits. -/
def Obligations.StoreBcdWritesDecimalDigits : Prop :=
  ∀ (x : Reg) (s : State),
    (dataAddress s + 3 ≤ 4096 → ∃ t, exec (.storeBcd x) s = .next t ∧ t.i = s.i ∧ (∀ k : Reg, t.getV k = s.getV k) ∧
      (t.mem.readByte (dataAddress s)).toNat * 100 + (t.mem.readByte (dataAddress s + 1)).toNat * 10 +
        (t.mem.readByte (dataAddress s + 2)).toNat = (s.getV x).toNat ∧
      (t.mem.readByte (dataAddress s)).toNat ≤ 2 ∧ (t.mem.readByte (dataAddress s + 1)).toNat ≤ 9 ∧
      (t.mem.readByte (dataAddress s + 2)).toNat ≤ 9 ∧
      ∀ a, a < dataAddress s ∨ dataAddress s + 3 ≤ a → t.mem.readByte a = s.mem.readByte a) ∧
    (4096 < dataAddress s + 3 → exec (.storeBcd x) s = .fault (.outOfBounds s)) ∧
    encodeWord (.storeBcd x) &&& 0xF0FF = 0xF033

/-- `store-regs` (R175): register k goes to address I + k for k up to x, no other byte changes; OutOfBounds when the block
would run past byte 4095, with nothing written. -/
def Obligations.StoreRegsWritesTheBlock : Prop :=
  ∀ (x : Reg) (s : State),
    (dataAddress s + x.val + 1 ≤ 4096 → ∃ t, exec (.storeRegs x) s = .next t ∧
      (∀ k : Reg, k ≤ x → t.mem.readByte (dataAddress s + k.val) = s.getV k) ∧
      ∀ a, a < dataAddress s ∨ dataAddress s + x.val + 1 ≤ a → t.mem.readByte a = s.mem.readByte a) ∧
    (4096 < dataAddress s + x.val + 1 → exec (.storeRegs x) s = .fault (.outOfBounds s))

/-- `load-regs` (R176): register k receives the byte at I + k for k up to x, registers above x keep theirs; OutOfBounds when
the block would run past byte 4095, with no register changed (decision D12). -/
def Obligations.LoadRegsReadsTheBlock : Prop :=
  ∀ (x : Reg) (s : State),
    (dataAddress s + x.val + 1 ≤ 4096 → ∃ t, exec (.loadRegs x) s = .next t ∧
      (∀ k : Reg, k ≤ x → t.getV k = s.mem.readByte (dataAddress s + k.val)) ∧
      ∀ k : Reg, x < k → t.getV k = s.getV k) ∧
    (4096 < dataAddress s + x.val + 1 → exec (.loadRegs x) s = .fault (.outOfBounds s))

/-- Registers stored with `store-regs` come back with `load-regs`, from any later state with the same I and memory. -/
def Obligations.LoadRegsUndoesStoreRegs : Prop :=
  ∀ (x : Reg) (s t u : State), exec (.storeRegs x) s = .next t → u.i = s.i → u.mem = t.mem →
    ∃ r, exec (.loadRegs x) u = .next r ∧ ∀ k : Reg, k ≤ x → r.getV k = s.getV k

/-! ### Display (44_display.md) -/

/-- `clear-display` (R190, R193): it always succeeds and every cell is 0. -/
def Obligations.ClearDisplayZeroesEveryCell : Prop :=
  ∀ s : State, ∃ t, exec .clearDisplay s = .next t ∧
    ∀ (cx : Fin 64) (cy : Fin 32), t.fb.cell cx cy = false

/-- `draw` (R191, R194), where the rows exist: a cell is inverted exactly when a 1 bit of the sprite falls on it with wrap,
bit 7 of a row byte the leftmost; VF is 1 exactly when such a cell was set before, else 0; DIRTY is set. Otherwise
OutOfBounds with nothing changed. The case n = 0 and the unchanged state after the error are decisions D32 and D12. -/
def Obligations.DrawInvertsTheCellsUnderTheSprite : Prop :=
  ∀ (x y : Reg) (n : RowCount) (s : State),
    (dataAddress s + n.val ≤ 4096 → ∃ t, exec (.draw x y n) s = .next t ∧
      (∀ (cx : Fin 64) (cy : Fin 32), t.fb.cell cx cy ≠ s.fb.cell cx cy ↔
        ∃ r j, r < n.val ∧ j < 8 ∧ cx.val = ((s.getV x).toNat + j) % 64 ∧ cy.val = ((s.getV y).toNat + r) % 32 ∧
          (s.mem.readByte (dataAddress s + r)).getLsbD (7 - j) = true) ∧
      ((t.getV vf).toNat = if ∃ (cx : Fin 64) (cy : Fin 32), s.fb.cell cx cy = true ∧ t.fb.cell cx cy = false
        then 1 else 0) ∧
      t.dirty = true) ∧
    (4096 < dataAddress s + n.val → exec (.draw x y n) s = .fault (.outOfBounds s))

/-- Drawing the same sprite twice at the same coordinates restores the framebuffer (R195 (a)). VF must not be a coordinate,
since the first draw writes it. -/
def Obligations.DrawingTwiceRestoresTheFramebuffer : Prop :=
  ∀ (x y : Reg) (n : RowCount) (s t u : State), x ≠ vf → y ≠ vf →
    exec (.draw x y n) s = .next t → exec (.draw x y n) t = .next u → u.fb = s.fb

/-- Cells outside the 8-by-n rectangle, taken with wrap, are never changed (R195 (d)). -/
def Obligations.DrawStaysInItsRectangle : Prop :=
  ∀ (x y : Reg) (n : RowCount) (s t : State) (cx : Fin 64) (cy : Fin 32), exec (.draw x y n) s = .next t →
    (∀ j < 8, cx.val ≠ ((s.getV x).toNat + j) % 64) ∨ (∀ r < n.val, cy.val ≠ ((s.getV y).toNat + r) % 32) →
    t.fb.cell cx cy = s.fb.cell cx cy

/-! ### Keys and timers (45_keys_timers.md) -/

/-- The key skips (R200, R201): with Vx at most 15 exactly one of them skips, by the state of key Vx; above 15 both raise
KeyIndexOutOfRange and change nothing (decision D13). -/
def Obligations.KeySkipsMovePc : Prop :=
  ∀ (x : Reg) (s : State), s.pc.toNat ≤ 4096 →
    (∀ k : Fin 16, (s.getV x).toNat = k.val →
      (∃ t, exec (.skipIfPressed x) s = .next t ∧
        t.pc.toNat = if s.key[k] = true then s.pc.toNat + 2 else s.pc.toNat) ∧
      (∃ t, exec (.skipIfNotPressed x) s = .next t ∧
        t.pc.toNat = if s.key[k] = true then s.pc.toNat else s.pc.toNat + 2)) ∧
    (15 < (s.getV x).toNat → exec (.skipIfPressed x) s = .fault (.keyIndexOutOfRange s) ∧
      exec (.skipIfNotPressed x) s = .fault (.keyIndexOutOfRange s))

/-- `wait-for-key` (R204): with no key down PC goes back by 2 and nothing else changes (that this is an ordinary completed
step is decision D29); otherwise Vx is the lowest-numbered key that is down and PC stays. -/
def Obligations.WaitForKeyRetriesOrTakesTheLowestKey : Prop :=
  ∀ (x : Reg) (s : State),
    ((∀ k : Fin 16, s.key[k] = false) → 2 ≤ s.pc.toNat →
      ∃ t, exec (.waitForKey x) s = .next t ∧ t.pc.toNat = s.pc.toNat - 2 ∧
        UnchangedOutside { pc := true } s t) ∧
    (∀ k : Fin 16, s.key[k] = true → (∀ j : Fin 16, j < k → s.key[j] = false) →
      ∃ t, exec (.waitForKey x) s = .next t ∧ (t.getV x).toNat = k.val ∧ t.pc = s.pc)

/-- `load-dt`, `set-dt` and `set-st` (R205, R206, R207): the value moved; the timer writes leave TREF alone. -/
def Obligations.TimerRegisterResults : Prop :=
  ∀ (x : Reg) (s : State),
    (∃ t, exec (.loadDt x) s = .next t ∧ t.getV x = s.dt) ∧
    (∃ t, exec (.setDt x) s = .next t ∧ t.dt = s.getV x ∧ t.tref = s.tref) ∧
    (∃ t, exec (.setSt x) s = .next t ∧ t.st = s.getV x ∧ t.tref = s.tref)

/-! ### Frames (10_state.md R42): what each instruction leaves unchanged -/

/-- Control flow: PC; `call` and `return` also SP, and `call` the stack entry SP. Every register, every flag, every byte of
memory and everything else is unchanged. -/
def Obligations.ControlFlowFrame : Prop :=
  ∀ (i : Instr) (s t : State), familyOf i = .controlFlow → exec i s = .next t → UnchangedOutside (mayWrite i s) s t

/-- Loads, arithmetic, logic, shifts and random: Vx, and VF where the operation writes the flag. -/
def Obligations.AluFrame : Prop :=
  ∀ (i : Instr) (s t : State), familyOf i = .alu → exec i s = .next t → UnchangedOutside (mayWrite i s) s t

/-- Index and block memory: I (and the warning) for the index operations; the stored bytes, addressed as the meaning
addresses them, for the stores; V0 to Vx for `load-regs`. -/
def Obligations.IndexMemoryFrame : Prop :=
  ∀ (i : Instr) (s t : State), familyOf i = .indexMemory → exec i s = .next t → UnchangedOutside (mayWrite i s) s t

/-- Display: the framebuffer; `draw` also VF and DIRTY (that `clear-display` leaves DIRTY is decision D16). -/
def Obligations.DisplayFrame : Prop :=
  ∀ (i : Instr) (s t : State), familyOf i = .display → exec i s = .next t → UnchangedOutside (mayWrite i s) s t

/-- Keys and timers: PC for the skips and the retry, Vx for `load-dt` and a completed `wait-for-key`, DT, ST. -/
def Obligations.KeysTimersFrame : Prop :=
  ∀ (i : Instr) (s t : State), familyOf i = .keysTimers → exec i s = .next t → UnchangedOutside (mayWrite i s) s t

/-! ### The step (40_step_cycle.md) -/

/-- A step runs the decoded instruction (R100 to R106): where the word at PC decodes to i, the step samples its inputs,
applies the timer phase, fetches and advances PC, runs `exec i`, and reports a PC of 4096 or more (decision D9); `step` is
that step with the free inputs of log 1 and log 2. -/
def Obligations.StepRunsTheDecodedInstruction : Prop :=
  (∀ (now : Nat) (rand : Byte) (s : State) (i : Instr), s.pc.toNat + 2 ≤ 4096 → decodeWord (wordAtPc s) = .ok i →
    stepWith now rand s = match exec i (afterFetch now rand s) with
      | .next t => if 4096 ≤ t.pc.toNat then .fault (.programCounterOutOfRange t) else .next t
      | .fault f => .fault f
      | .refused r => .refused r) ∧
  (∀ s : State, step s =
    stepWith (s.now + Config.elapsedUs s.stepNo) (Config.randomByte s.stepNo) (s.setStepNo (s.stepNo + 1)))

/-- An unrecognised word (R105): where no row of the opcode table selects the word at PC the step raises InvalidInstruction;
PC is the address of the word plus 2, IR holds the word, the timer phase is applied, and nothing else is changed. The
post-check does not run: the error is the same at the top of memory. -/
def Obligations.UnrecognisedWordRaisesInvalidInstruction : Prop :=
  ∀ (now : Nat) (rand : Byte) (s : State), s.pc.toNat + 2 ≤ 4096 →
    (∀ r ∈ opcodeTable, r.selects (wordAtPc s) = false) →
    ∃ left, stepWith now rand s = .fault (.invalidInstruction left) ∧ left.pc.toNat = s.pc.toNat + 2 ∧
      left.ir = wordAtPc s ∧ left.dt = (timerPhase (sampleInputs now rand s)).dt ∧
      left.st = (timerPhase (sampleInputs now rand s)).st ∧ left.tref = (timerPhase (sampleInputs now rand s)).tref ∧
      left.v = s.v ∧ left.i = s.i ∧ left.sp = s.sp ∧ left.stk = s.stk ∧ left.key = s.key ∧ left.fb = s.fb ∧
      left.dirty = s.dirty ∧ left.mem = s.mem

/-- A fetch at 4095 or above (R102): OutOfBounds with PC and IR unchanged and the timer phase kept (decision D11). -/
def Obligations.FetchBeyondMemoryRaisesOutOfBounds : Prop :=
  ∀ (now : Nat) (rand : Byte) (s : State), 4095 ≤ s.pc.toNat →
    stepWith now rand s = .fault (.outOfBounds (timerPhase (sampleInputs now rand s)))

/-- The timer phase (R101) with numbers: at least 16667 microseconds since TREF, and each timer that is not 0 is one less and
TREF is `now`; otherwise the three are unchanged; and whatever the time nothing else changes. One decrement however long the
time is decision D2, the exact period D34; that a `now` below TREF, which R221 leaves undefined, changes nothing is the
model's choice among the readings R221 allows (log 22). -/
def Obligations.TimerPhaseCountsDownOnce : Prop :=
  ∀ (now : Nat) (rand : Byte) (s t : State), t = timerPhase (sampleInputs now rand s) →
    (s.tref + 16667 ≤ now →
      t.dt.toNat = s.dt.toNat - 1 ∧ t.st.toNat = s.st.toNat - 1 ∧ t.tref = now) ∧
    (now < s.tref + 16667 → t.dt = s.dt ∧ t.st = s.st ∧ t.tref = s.tref) ∧
    t.v = s.v ∧ t.i = s.i ∧ t.pc = s.pc ∧ t.sp = s.sp ∧ t.stk = s.stk ∧ t.key = s.key ∧ t.fb = s.fb ∧
    t.dirty = s.dirty ∧ t.ir = s.ir ∧ t.mem = s.mem

/-- No timer is ever incremented (10_state.md R30): in the state any step leaves, completed or failed, each timer holds what
it held or one less, 0 staying 0, unless the step ran the timer's own write. That one step takes at most one count off is
decision D2 (log 17). -/
def Obligations.OnlyTimerWritesRaiseATimer : Prop :=
  ∀ (now : Nat) (rand : Byte) (s t : State),
    (stepWith now rand s = .next t ∨ ∃ f, stepWith now rand s = .fault f ∧ stateLeft f = t) →
    ((s.pc.toNat ≤ 4094 → ∀ x, decodeWord (wordAtPc s) ≠ .ok (.setDt x)) →
      t.dt.toNat = s.dt.toNat ∨ t.dt.toNat + 1 = s.dt.toNat) ∧
    ((s.pc.toNat ≤ 4094 → ∀ x, decodeWord (wordAtPc s) ≠ .ok (.setSt x)) →
      t.st.toNat = s.st.toNat ∨ t.st.toNat + 1 = s.st.toNat)

/-- No instruction reads ST, TREF or IR (10_state.md R31, R29, R35): the execute phase of every instruction is the same
whatever they hold, `set-st` overwriting ST. -/
def Obligations.SoundTimerReferenceAndScratchAreUnread : Prop :=
  ∀ (i : Instr) (s : State) (b : Byte) (n : Nat) (w : Word),
    ((∀ x, i ≠ .setSt x) → exec i (s.setSt b) = mapOutcome (fun t => t.setSt b) (exec i s)) ∧
    (∀ x, i = .setSt x → exec i (s.setSt b) = exec i s) ∧
    exec i (s.setTref n) = mapOutcome (fun t => t.setTref n) (exec i s) ∧
    exec i (s.setIr w) = mapOutcome (fun t => t.setIr w) (exec i s)

/-! ### Errors (60_exceptions.md) -/

/-- Which instruction raises which error (R240's table), that an execute-phase error leaves the state as the execute phase
found it (R250), and the code every finished step and load reports: 0 for Ok, 1 to 7 for the errors, 6 by a load only. The
codes are decision D14 and KeyIndexOutOfRange decision D13 (log 18); the stop for SP above 16, which has no code, is
log 8. -/
def Obligations.ExecuteErrorsAreThoseOfTheTable : Prop :=
  (∀ (i : Instr) (s : State) (f : Fault), exec i s = .fault f → stateLeft f = s ∧
    match f with
    | .outOfBounds _ => resultCode (.fault f) = some 1 ∧
        ((∃ x y n, i = .draw x y n) ∨ (∃ x, i = .storeBcd x) ∨ (∃ x, i = .storeRegs x) ∨ ∃ x, i = .loadRegs x)
    | .stackOverflow _ => resultCode (.fault f) = some 2 ∧ ∃ nnn, i = .call nnn
    | .stackUnderflow _ => resultCode (.fault f) = some 3 ∧ i = .ret
    | .programCounterOutOfRange _ => False
    | .invalidInstruction _ => False
    | .keyIndexOutOfRange _ => resultCode (.fault f) = some 7 ∧
        ((∃ x, i = .skipIfPressed x) ∨ ∃ x, i = .skipIfNotPressed x)
    | .stackPointerBeyondStack _ => resultCode (.fault f) = none ∧ 16 < s.sp.toNat ∧
        ((∃ nnn, i = .call nnn) ∨ i = .ret)) ∧
  (∀ (now : Nat) (rand : Byte) (s : State),
    (4095 ≤ s.pc.toNat → resultCode (stepWith now rand s) = some 1) ∧
    (s.pc.toNat ≤ 4094 → (∀ i, decodeWord (wordAtPc s) ≠ .ok i) → resultCode (stepWith now rand s) = some 5) ∧
    (s.pc.toNat ≤ 4094 → ∀ i, decodeWord (wordAtPc s) = .ok i →
      (∀ t, exec i (afterFetch now rand s) = .next t →
        resultCode (stepWith now rand s) = some (if 4096 ≤ t.pc.toNat then 4 else 0)) ∧
      (∀ f, exec i (afterFetch now rand s) = .fault f → resultCode (stepWith now rand s) = resultCode (.fault f))) ∧
    resultCode (stepWith now rand s) ≠ some 6) ∧
  (∀ (rom : List Byte) (s : State), loadResultCode (loadRom rom s).1 = if 3584 < rom.length then 6 else 0)

/-- Every instruction has its meaning: no execute phase and no step ends in a refusal. -/
def Obligations.NothingIsRefused : Prop :=
  (∀ (i : Instr) (s : State) (r : Refusal), exec i s ≠ .refused r) ∧ (∀ (s : State) (r : Refusal), step s ≠ .refused r)

/-- The state an error leaves (R108, the rows of the table): the timer phase alone where the fetch failed; that, IR and the
advanced PC where decode or execute failed; the completed instruction's state with its PC of 4096 or more otherwise. The
order is decision D11. -/
def Obligations.StepErrorsLeaveTheStateOfTheSummary : Prop :=
  ∀ (now : Nat) (rand : Byte) (s : State) (f : Fault), stepWith now rand s = .fault f →
    (4095 ≤ s.pc.toNat ∧ f = .outOfBounds (timerPhase (sampleInputs now rand s))) ∨
    (s.pc.toNat ≤ 4094 ∧ stateLeft f = afterFetch now rand s ∧ ∀ t, f ≠ .programCounterOutOfRange t) ∨
    (s.pc.toNat ≤ 4094 ∧ ∃ i t, decodeWord (wordAtPc s) = .ok i ∧ exec i (afterFetch now rand s) = .next t ∧
      4096 ≤ t.pc.toNat ∧ f = .programCounterOutOfRange t)

/-! ### Invariants (10_state.md R41) -/

/-- The state after reset meets the invariant. The reset values other than PC and memory are decision D4 (log 4). -/
def Obligations.ResetMeetsTheInvariant : Prop := State.reset.Inv

/-- Every step that answers a next state keeps the invariant: memory in canonical form inside 4096 bytes, SP at most 16, the
stacked addresses at most 4096, TREF not past `now`, PC an address of memory (R41). -/
def Obligations.StepKeepsTheInvariant : Prop :=
  ∀ s t : State, s.Inv → step s = .next t → t.Inv

/-- The bounds hold of the state an error leaves, and PC is at most 4350 there (R41 (c), R110). -/
def Obligations.StepErrorsLeaveABoundedState : Prop :=
  ∀ (now : Nat) (rand : Byte) (s : State) (f : Fault), s.Bounded → s.now ≤ now → stepWith now rand s = .fault f →
    (stateLeft f).Bounded

/-- Every host transaction keeps the invariant. -/
def Obligations.TransactionsKeepTheInvariant : Prop :=
  ∀ (a : Transaction) (s : State), s.Inv → (transact a s).2.Inv

/-- Every history of steps and host transactions from a reset, its clock never decreasing, reaches only states that meet the
invariant, and an error that ends it leaves a bounded state (R41). -/
def Obligations.EveryHistoryFromResetKeepsTheInvariant : Prop :=
  ∀ (es : List Event) (now : Nat) (s : State), clockNeverDecreases now es = true →
    (∀ t, history es (resetMachine now s) = .next t → t.Inv) ∧
    (∀ f, history es (resetMachine now s) = .fault f → (stateLeft f).Bounded)

/-! ### Host interface and reset (46_host_interface.md, 70_reset_and_hazards.md) -/

/-- `load_rom` (R226): at most 3584 bytes go to 0x200 and up, no other byte of memory and no other state changes, not PC and
not DIRTY (decision D19); a longer image is RomTooLarge and changes nothing. -/
def Obligations.LoadRomWritesFrom0x200 : Prop :=
  ∀ (rom : List Byte) (s : State),
    (rom.length ≤ 3584 → (loadRom rom s).1 = none ∧
      (∀ k < rom.length, rom[k]? = some ((loadRom rom s).2.mem.readByte (0x200 + k))) ∧
      (∀ a, a < 0x200 ∨ 0x200 + rom.length ≤ a → (loadRom rom s).2.mem.readByte a = s.mem.readByte a) ∧
      (loadRom rom s).2 = s.setMem (loadRom rom s).2.mem) ∧
    (3584 < rom.length → loadRom rom s = (some .romTooLarge, s))

/-- `set_key` and `clear_key` (R224, R225): the one cell, nothing else; setting a set key changes nothing; a press and a
release between two steps leave no trace. The key latch (R32): no step, completed or failed, and no transaction but these
two and reset writes it; they reach every combination of keys; and the instructions whose execute phase reads it are
exactly `skip-if-pressed`, `skip-if-not-pressed` and `wait-for-key`. -/
def Obligations.KeysAreLevelsWrittenByTheHostOnly : Prop :=
  (∀ (k j : Fin 16) (s : State),
    (setKey k s).key[j] = (if j = k then true else s.key[j]) ∧
    (clearKey k s).key[j] = (if j = k then false else s.key[j])) ∧
  (∀ (k : Fin 16) (s : State), setKey k s = s.setKeys (setKey k s).key ∧
    clearKey k s = s.setKeys (clearKey k s).key ∧
    (s.key[k] = true → setKey k s = s) ∧ (s.key[k] = false → clearKey k (setKey k s) = s)) ∧
  (∀ (now : Nat) (rand : Byte) (s : State),
    (∀ t, stepWith now rand s = .next t → t.key = s.key) ∧
    (∀ f, stepWith now rand s = .fault f → (stateLeft f).key = s.key)) ∧
  (∀ (a : Transaction) (s : State), isKeyTransaction a = false → (∀ now, a ≠ .reset now) →
    (transact a s).2.key = s.key) ∧
  (∀ (s : State) (key : Vector Bool 16), ∃ keys : List Transaction,
    keys.all isKeyTransaction = true ∧ transactAll keys s = s.setKeys key) ∧
  (∀ i : Instr,
    (∀ (s : State) (key : Vector Bool 16), exec i (s.setKeys key) = mapOutcome (fun t => t.setKeys key) (exec i s)) ↔
    ((∀ x, i ≠ .skipIfPressed x) ∧ (∀ x, i ≠ .skipIfNotPressed x) ∧ ∀ x, i ≠ .waitForKey x))

/-- `consume_framebuffer` (R228): it returns the cells whether or not DIRTY is set, clears DIRTY, leaves FB; and nothing but
it and reset ever makes DIRTY false: no step, failed or not, and no other transaction. -/
def Obligations.DirtyIsClearedByConsumeAndResetOnly : Prop :=
  (∀ s : State, (consumeFramebuffer s).1 = snapshot s ∧ (consumeFramebuffer s).2.dirty = false ∧
    (consumeFramebuffer s).2.fb = s.fb) ∧
  (∀ (now : Nat) (rand : Byte) (s : State), s.dirty = true →
    (∀ t, stepWith now rand s = .next t → t.dirty = true) ∧
    (∀ f, stepWith now rand s = .fault f → (stateLeft f).dirty = true)) ∧
  (∀ (a : Transaction) (s : State), s.dirty = true → a ≠ .consumeFramebuffer → (∀ now, a ≠ .reset now) →
    (transact a s).2.dirty = true)

/-- `snapshot` (R192, R229): cell (cx, cy) at position cy * 64 + cx (decision D17). -/
def Obligations.SnapshotIsRowMajor : Prop :=
  ∀ (s : State) (cx : Fin 64) (cy : Fin 32), (snapshot s)[cy.val * 64 + cx.val]? = some (s.fb.cell cx cy)

/-- `reset(now)` (R40, R230, R280): PC = 0x200 and memory zero from 0x200 up are the source's; RESERVED_IMAGE below (decision
D5, log 5), zero registers, stack, timers, keys up, clear framebuffer, DIRTY false (decision D4, log 4), TREF = now (decision
D3). The state `State.reset` is that of a reset at time 0 (log 3). -/
def Obligations.ResetValues : Prop :=
  (∀ (now : Nat) (s : State),
    (resetMachine now s).pc = 0x200 ∧
    (∀ a, 0x200 ≤ a → (resetMachine now s).mem.readByte a = 0) ∧
    (∀ a, a < 0x200 → (resetMachine now s).mem.readByte a = Config.reservedImage.getD a 0) ∧
    (∀ k : Reg, (resetMachine now s).getV k = 0) ∧ (resetMachine now s).i = 0 ∧ (resetMachine now s).sp = 0 ∧
    (∀ j : Fin 16, (resetMachine now s).stk[j] = 0) ∧ (resetMachine now s).dt = 0 ∧ (resetMachine now s).st = 0 ∧
    (resetMachine now s).tref = now ∧ (∀ k : Fin 16, (resetMachine now s).key[k] = false) ∧
    (∀ (cx : Fin 64) (cy : Fin 32), (resetMachine now s).fb.cell cx cy = false) ∧
    (resetMachine now s).dirty = false ∧ (resetMachine now s).ir = 0) ∧
  resetMachine 0 State.reset = State.reset

/-- A clean launch state (R281): its image fits; PC = 0x200, the image from 0x200, zero above it, RESERVED_IMAGE below,
registers, every stack entry, SP, timers and IR zero, TREF the time of the reset, the framebuffer clear, DIRTY false; and for
every image that fits and every combination of keys there is one with those keys held. The values other than PC, the image
and the zeros above it are decisions D3, D4, D5 and D25 (logs 3, 4, 5), that a load writes memory alone D19 (log 20). -/
def Obligations.CleanLaunchState : Prop :=
  (∀ (rom : List Byte) (now : Nat) (t : State), CleanLaunch rom now t →
    rom.length ≤ 3584 ∧ t.pc = 0x200 ∧
    (∀ k < rom.length, rom[k]? = some (t.mem.readByte (0x200 + k))) ∧
    (∀ a, 0x200 + rom.length ≤ a → t.mem.readByte a = 0) ∧
    (∀ a, a < 0x200 → t.mem.readByte a = Config.reservedImage.getD a 0) ∧
    (∀ k : Reg, t.getV k = 0) ∧ t.i = 0 ∧ t.sp = 0 ∧ (∀ j : Fin 16, t.stk[j] = 0) ∧ t.dt = 0 ∧ t.st = 0 ∧
    t.tref = now ∧ (∀ (cx : Fin 64) (cy : Fin 32), t.fb.cell cx cy = false) ∧ t.dirty = false ∧ t.ir = 0) ∧
  (∀ (rom : List Byte) (now : Nat) (key : Vector Bool 16), rom.length ≤ 3584 →
    ∃ t, CleanLaunch rom now t ∧ t.key = key)

/-- From an idle state, the next instruction a `jump` to itself, a step changes nothing but IR, the timers and TREF, and the
machine is idle again (R288; that this counts as the end of a run is decision D27). The model's ports (log 1, log 2, log 7)
take the step's inputs. -/
def Obligations.IdleStatesStayIdle : Prop :=
  ∀ (now : Nat) (rand : Byte) (s : State), Idle s → ∃ t, stepWith now rand s = .next t ∧ Idle t ∧
    t.v = s.v ∧ t.i = s.i ∧ t.pc = s.pc ∧ t.sp = s.sp ∧ t.stk = s.stk ∧ t.key = s.key ∧ t.fb = s.fb ∧
    t.dirty = s.dirty ∧ t.mem = s.mem ∧ t.ir = wordAtPc s
end

