-- ==== Sys2Proof/Laws/Decode.lean ====
section
/-!
SUPPORT. The fields of a word and the words of an instruction as numbers, so that what is said of encodings is arithmetic.
-/
namespace Sys2Proof

/-- Concatenation as a number. -/
theorem toNat_concat {v w : Nat} (x : BitVec v) (y : BitVec w) : (x ++ y).toNat = x.toNat * 2 ^ w + y.toNat := by
  rw [BitVec.toNat_append, Nat.shiftLeft_eq, Nat.mul_comm, ← Nat.two_pow_add_eq_or_of_lt y.isLt]

theorem encodeA_toNat (c : BitVec 4) (nnn : Address) : (encodeA c nnn).toNat = c.toNat * 4096 + nnn.toNat :=
  toNat_concat c nnn

theorem encodeXK_toNat (c : BitVec 4) (x : Reg) (kk : Byte) :
    (encodeXK c x kk).toNat = c.toNat * 4096 + (x.val * 256 + kk.toNat) :=
  (toNat_concat c (BitVec.ofFin (w := 4) x ++ kk)).trans
    (congrArg (c.toNat * 4096 + ·) (toNat_concat (BitVec.ofFin (w := 4) x) kk))

theorem encodeXYN_toNat (c : BitVec 4) (x y : Reg) (n : BitVec 4) :
    (encodeXYN c x y n).toNat = c.toNat * 4096 + (x.val * 256 + (y.val * 16 + n.toNat)) :=
  (toNat_concat c (BitVec.ofFin (w := 4) x ++ (BitVec.ofFin (w := 4) y ++ n))).trans
    (congrArg (c.toNat * 4096 + ·) ((toNat_concat (BitVec.ofFin (w := 4) x) (BitVec.ofFin (w := 4) y ++ n)).trans
      (congrArg (x.val * 256 + ·) (toNat_concat (BitVec.ofFin (w := 4) y) n))))

theorem fieldClass_toNat (w : Word) : (fieldClass w).toNat = w.toNat / 4096 := by
  have := w.isLt
  simp only [fieldClass, BitVec.extractLsb'_toNat, Nat.shiftRight_eq_div_pow, Nat.reducePow]
  omega

theorem fieldX_val (w : Word) : (fieldX w).val = w.toNat / 256 % 16 := by
  simp [fieldX, Nat.shiftRight_eq_div_pow]

theorem fieldY_val (w : Word) : (fieldY w).val = w.toNat / 16 % 16 := by
  simp [fieldY, Nat.shiftRight_eq_div_pow]

theorem fieldN_val (w : Word) : (fieldN w).val = w.toNat % 16 := by
  simp [fieldN]

theorem fieldKk_toNat (w : Word) : (fieldKk w).toNat = w.toNat % 256 := by
  simp [fieldKk]

theorem fieldNnn_toNat (w : Word) : (fieldNnn w).toNat = w.toNat % 4096 := by
  simp [fieldNnn]

/-! Fields of encoded words -/

@[simp] theorem fieldClass_encodeA (c : BitVec 4) (nnn : Address) : fieldClass (encodeA c nnn) = c := by
  have := nnn.isLt
  apply BitVec.eq_of_toNat_eq
  rw [fieldClass_toNat, encodeA_toNat]
  omega

@[simp] theorem fieldNnn_encodeA (c : BitVec 4) (nnn : Address) : fieldNnn (encodeA c nnn) = nnn := by
  have := nnn.isLt
  apply BitVec.eq_of_toNat_eq
  rw [fieldNnn_toNat, encodeA_toNat]
  omega

@[simp] theorem fieldClass_encodeXK (c : BitVec 4) (x : Reg) (kk : Byte) : fieldClass (encodeXK c x kk) = c := by
  have := kk.isLt
  apply BitVec.eq_of_toNat_eq
  rw [fieldClass_toNat, encodeXK_toNat]
  omega

@[simp] theorem fieldX_encodeXK (c : BitVec 4) (x : Reg) (kk : Byte) : fieldX (encodeXK c x kk) = x := by
  have := kk.isLt
  apply Fin.ext
  rw [fieldX_val, encodeXK_toNat]
  omega

@[simp] theorem fieldKk_encodeXK (c : BitVec 4) (x : Reg) (kk : Byte) : fieldKk (encodeXK c x kk) = kk := by
  have := kk.isLt
  apply BitVec.eq_of_toNat_eq
  rw [fieldKk_toNat, encodeXK_toNat]
  omega

@[simp] theorem fieldClass_encodeXYN (c : BitVec 4) (x y : Reg) (n : BitVec 4) :
    fieldClass (encodeXYN c x y n) = c := by
  have := n.isLt
  apply BitVec.eq_of_toNat_eq
  rw [fieldClass_toNat, encodeXYN_toNat]
  omega

@[simp] theorem fieldX_encodeXYN (c : BitVec 4) (x y : Reg) (n : BitVec 4) : fieldX (encodeXYN c x y n) = x := by
  have := n.isLt
  apply Fin.ext
  rw [fieldX_val, encodeXYN_toNat]
  omega

@[simp] theorem fieldY_encodeXYN (c : BitVec 4) (x y : Reg) (n : BitVec 4) : fieldY (encodeXYN c x y n) = y := by
  have := n.isLt
  apply Fin.ext
  rw [fieldY_val, encodeXYN_toNat]
  omega

@[simp] theorem fieldN_encodeXYN (c : BitVec 4) (x y : Reg) (n : BitVec 4) :
    fieldN (encodeXYN c x y n) = n.toFin := by
  have := n.isLt
  apply Fin.ext
  rw [fieldN_val, encodeXYN_toNat]
  change _ = n.toNat
  omega

/-! Words and bytes -/

/-- The opcode word of two bytes as a number (20_memory.md R56). -/
theorem wordOfBytes_toNat (hi lo : Byte) : (wordOfBytes hi lo).toNat = hi.toNat * 256 + lo.toNat :=
  toNat_concat hi lo

/-- The bytes of a word give the word back. -/
@[simp] theorem wordOfBytes_bytesOfWord (w : Word) : wordOfBytes (w.extractLsb' 8 8) (w.extractLsb' 0 8) = w := by
  have := w.isLt
  apply BitVec.eq_of_toNat_eq
  rw [wordOfBytes_toNat]
  simp only [BitVec.extractLsb'_toNat, Nat.shiftRight_eq_div_pow]
  omega

@[simp] theorem length_bytesOfWord (w : Word) : (bytesOfWord w).length = 2 := rfl

/-- Decoding the bytes of a word is decoding the word. -/
theorem decode_bytesOfWord (w : Word) (rest : List Byte) :
    decode (bytesOfWord w ++ rest) = (decodeWord w).map (fun i => (i, rest)) := by
  simp only [bytesOfWord, List.cons_append, List.nil_append, decode, wordOfBytes_bytesOfWord]
  cases decodeWord w <;> rfl

end Sys2Proof
end

