-- ==== Sys2Proof/Laws/Memory.lean ====
section
/-!
SUPPORT. Memory: a read after a write, the two bus operations, and that every memory operation keeps the canonical form.
The read laws hold of every list of cells, canonical or not.
-/
namespace Sys2Proof.Machine

/-! ### One byte -/

theorem Memory.readByte_removeEntry_same (m : Memory) (a : Nat) : (m.removeEntry a).readByte a = Memory.unlisted a := by
  induction m with
  | nil => rfl
  | cons c m ih =>
    obtain ⟨k, b⟩ := c
    by_cases h : k = a
    · simpa [Memory.removeEntry, h] using ih
    · simpa [Memory.removeEntry, Memory.readByte, h] using ih

theorem Memory.readByte_removeEntry_ne (m : Memory) {a k : Nat} (h : k ≠ a) : (m.removeEntry a).readByte k = m.readByte k := by
  induction m with
  | nil => rfl
  | cons c m ih =>
    obtain ⟨j, b⟩ := c
    by_cases hj : j = a
    · have hjk : j ≠ k := by omega
      simpa [Memory.removeEntry, Memory.readByte, hj, hjk, Ne.symm h] using ih
    · by_cases hk : j = k
      · simp [Memory.removeEntry, Memory.readByte, hk, h]
      · simpa [Memory.removeEntry, Memory.readByte, hj, hk] using ih

theorem Memory.readByte_insertEntry (m : Memory) (a k : Nat) (b : Byte) (h : k = a → (m.readByte a = Memory.unlisted a ∧ ∀ c ∈ m, c.1 ≠ a)) :
    (m.insertEntry a b).readByte k = if k = a then b else m.readByte k := by
  induction m with
  | nil =>
    by_cases hk : k = a
    · simp [Memory.insertEntry, Memory.readByte, hk]
    · simp [Memory.insertEntry, Memory.readByte, hk, Ne.symm hk]
  | cons c m ih =>
    obtain ⟨j, d⟩ := c
    by_cases hj : a < j
    · by_cases hk : k = a
      · simp [Memory.insertEntry, Memory.readByte, hj, hk]
      · simp [Memory.insertEntry, Memory.readByte, hj, hk, Ne.symm hk]
    · by_cases hk : k = a
      · have hja : j ≠ a := (h hk).2 (j, d) (by simp)
        have ih' := ih (fun _ => ⟨by have := (h hk).1; simpa [Memory.readByte, hja] using this,
          fun c hc => (h hk).2 c (by simp [hc])⟩)
        simpa [Memory.insertEntry, Memory.readByte, hj, hk, hja] using ih'
      · have ih' := ih (fun e => absurd e hk)
        by_cases hjk : j = k
        · subst hjk
          simp [Memory.insertEntry, Memory.readByte, hj, hk]
        · simpa [Memory.insertEntry, Memory.readByte, hj, hk, hjk] using ih'

/-- A read after a write of one byte. -/
theorem Memory.readByte_writeByte (m : Memory) (a k : Nat) (b : Byte) :
    (m.writeByte a b).readByte k = if k = a then b else m.readByte k := by
  unfold Memory.writeByte
  split
  · rename_i hb
    by_cases hk : k = a
    · simp [hk, Memory.readByte_removeEntry_same, hb]
    · simp [hk, Memory.readByte_removeEntry_ne]
  · rw [Memory.readByte_insertEntry]
    · by_cases hk : k = a
      · simp [hk]
      · simp [hk, Memory.readByte_removeEntry_ne]
    · intro _
      exact ⟨Memory.readByte_removeEntry_same m a, fun c hc => by
        have := (List.mem_filter.mp hc).2
        simpa using this⟩

/-! ### Blocks -/

/-- Reading one byte after a block was written. -/
theorem Memory.readByte_writeBytes (m : Memory) (a k : Nat) (bs : List Byte) :
    (m.writeBytes a bs).readByte k = if a ≤ k ∧ k < a + bs.length then bs.getD (k - a) 0 else m.readByte k := by
  induction bs generalizing m a with
  | nil =>
    have : ¬ (a ≤ k ∧ k < a + ([] : List Byte).length) := by simp
    rw [if_neg this]
    rfl
  | cons b bs ih =>
    simp only [Memory.writeBytes, ih, Memory.readByte_writeByte, List.length_cons]
    rcases Nat.lt_trichotomy k a with h | h | h
    · rw [if_neg (by omega), if_neg (by omega), if_neg (by omega)]
    · subst h
      rw [if_neg (by omega), if_pos rfl, if_pos (by omega)]
      simp
    · by_cases hb : k < a + (bs.length + 1)
      · rw [if_pos (by omega), if_pos (by omega)]
        have : k - a = (k - (a + 1)) + 1 := by omega
        rw [this]
        simp
      · rw [if_neg (by omega), if_neg (by omega), if_neg (by omega)]

@[simp] theorem Memory.length_readBytes (m : Memory) (a n : Nat) : (m.readBytes a n).length = n := by
  induction n generalizing a with
  | zero => rfl
  | succ n ih => simp [Memory.readBytes, ih]

/-- Byte `k` of a block read. -/
theorem Memory.getD_readBytes (m : Memory) (a n k : Nat) (d : Byte) :
    (m.readBytes a n).getD k d = if k < n then m.readByte (a + k) else d := by
  induction n generalizing a k with
  | zero => simp [Memory.readBytes]
  | succ n ih =>
    cases k with
    | zero => simp [Memory.readBytes]
    | succ k =>
      simp only [Memory.readBytes, List.getD_cons_succ, ih, Nat.add_lt_add_iff_right]
      rw [show a + 1 + k = a + (k + 1) by omega]

theorem Memory.getElem_readBytes (m : Memory) (a n k : Nat) (h : k < (m.readBytes a n).length) :
    (m.readBytes a n)[k] = m.readByte (a + k) := by
  have hk : k < n := by simpa using h
  have := Memory.getD_readBytes m a n k 0
  rw [if_pos hk] at this
  rw [← this, List.getD_eq_getElem?_getD, List.getElem?_eq_getElem h, Option.getD_some]

/-! ### The bus (20_memory.md R52, R53) -/

/-- Everything `MemRead` can answer. -/
theorem memRead_eq_some {m : Memory} {addr n : Nat} {bytes : List Byte} :
    memRead m addr n = some bytes ↔ addr + n ≤ 4096 ∧ bytes = m.readBytes addr n := by
  by_cases h : addr + n > 4096
  · simp [memRead, h]
  · simp [memRead, h, eq_comm]
    omega

theorem memRead_eq_none {m : Memory} {addr n : Nat} : memRead m addr n = none ↔ addr + n > 4096 := by
  simp [memRead]

/-- Everything `MemWrite` can answer. -/
theorem memWrite_eq_some {m m' : Memory} {addr : Nat} {bytes : List Byte} :
    memWrite m addr bytes = some m' ↔ addr + bytes.length ≤ 4096 ∧ m' = m.writeBytes addr bytes := by
  by_cases h : addr + bytes.length > 4096
  · simp [memWrite, h]
  · simp [memWrite, h, eq_comm]
    omega

theorem memWrite_eq_none {m : Memory} {addr : Nat} {bytes : List Byte} :
    memWrite m addr bytes = none ↔ addr + bytes.length > 4096 := by
  simp [memWrite]

/-! ### The canonical form -/

theorem Memory.wf_nil : Memory.wf [] = true := rfl

theorem Memory.wf_cons {a : Nat} {b : Byte} {m : Memory} :
    Memory.wf ((a, b) :: m) = true ↔
      a < 4096 ∧ b ≠ Memory.unlisted a ∧ (∀ c ∈ m, a < c.1) ∧ Memory.wf m = true := by
  change (decide (a < 4096) && b != Memory.unlisted a && m.all (fun c => decide (a < c.1)) && Memory.wf m) = true ↔ _
  simp only [Bool.and_eq_true, decide_eq_true_eq, bne_iff_ne, ne_eq, List.all_eq_true, and_assoc]

theorem Memory.removeEntry_keeps_wf {m : Memory} (a : Nat) (h : m.wf = true) : (m.removeEntry a).wf = true := by
  induction m with
  | nil => rfl
  | cons c m ih =>
    obtain ⟨k, b⟩ := c
    obtain ⟨hk, hb, hlt, hm⟩ := Memory.wf_cons.mp h
    by_cases hka : k = a
    · simpa [Memory.removeEntry, hka] using ih hm
    · have e : Memory.removeEntry ((k, b) :: m) a = (k, b) :: Memory.removeEntry m a := by simp [Memory.removeEntry, hka]
      rw [e]
      exact Memory.wf_cons.mpr ⟨hk, hb, fun c hc => hlt c (List.mem_filter.mp hc).1, ih hm⟩

theorem Memory.mem_insertEntry {m : Memory} {a : Nat} {b : Byte} {c : Host.Cell} (h : c ∈ m.insertEntry a b) :
    c = (a, b) ∨ c ∈ m := by
  induction m with
  | nil => simpa [Memory.insertEntry] using h
  | cons d m ih =>
    obtain ⟨k, e⟩ := d
    simp only [Memory.insertEntry] at h
    split at h
    · simpa using h
    · rcases List.mem_cons.mp h with h | h
      · simp [h]
      · rcases ih h with h | h <;> simp [h]

theorem Memory.insertEntry_keeps_wf {m : Memory} {a : Nat} {b : Byte} (ha : a < 4096) (hb : b ≠ Memory.unlisted a)
    (hne : ∀ c ∈ m, c.1 ≠ a) (h : m.wf = true) : (m.insertEntry a b).wf = true := by
  induction m with
  | nil => exact Memory.wf_cons.mpr ⟨ha, hb, by simp, rfl⟩
  | cons c m ih =>
    obtain ⟨k, d⟩ := c
    obtain ⟨hk, hd, hlt, hm⟩ := Memory.wf_cons.mp h
    have hka : k ≠ a := hne (k, d) (by simp)
    simp only [Memory.insertEntry]
    split
    · rename_i hak
      refine Memory.wf_cons.mpr ⟨ha, hb, fun c hc => ?_, h⟩
      rcases List.mem_cons.mp hc with hc | hc
      · simpa [hc] using hak
      · exact Nat.lt_trans hak (hlt c hc)
    · rename_i hak
      refine Memory.wf_cons.mpr ⟨hk, hd, fun c hc => ?_, ih (fun c hc => hne c (by simp [hc])) hm⟩
      rcases Memory.mem_insertEntry hc with hc | hc
      · simp only [hc]
        omega
      · exact hlt c hc

/-- A write of one byte that exists keeps the canonical form. -/
theorem Memory.writeByte_keeps_wf {m : Memory} {a : Nat} (b : Byte) (ha : a < 4096) (h : m.wf = true) :
    (m.writeByte a b).wf = true := by
  unfold Memory.writeByte
  split
  · exact Memory.removeEntry_keeps_wf a h
  · rename_i hb
    refine Memory.insertEntry_keeps_wf ha hb (fun c hc => ?_) (Memory.removeEntry_keeps_wf a h)
    simpa using (List.mem_filter.mp hc).2

/-- A block write inside memory keeps the canonical form. -/
theorem Memory.writeBytes_keeps_wf {m : Memory} {a : Nat} {bs : List Byte} (hb : a + bs.length ≤ 4096)
    (h : m.wf = true) : (m.writeBytes a bs).wf = true := by
  induction bs generalizing m a with
  | nil => exact h
  | cons b bs ih =>
    simp only [List.length_cons] at hb
    exact ih (by omega) (Memory.writeByte_keeps_wf b (by omega) h)

/-- The bus write keeps the canonical form. -/
theorem memWrite_keeps_wf {m m' : Memory} {addr : Nat} {bytes : List Byte} (e : memWrite m addr bytes = some m')
    (h : m.wf = true) : m'.wf = true := by
  obtain ⟨hb, rfl⟩ := memWrite_eq_some.mp e
  exact Memory.writeBytes_keeps_wf hb h

/-- Writing what an unlisted address reads as leaves empty memory empty. -/
theorem Memory.writeBytes_unlisted (a : Nat) (bs : List Byte) (h : ∀ k < bs.length, bs.getD k 0 = Memory.unlisted (a + k)) :
    Memory.writeBytes [] a bs = [] := by
  induction bs generalizing a with
  | nil => rfl
  | cons b bs ih =>
    have h0 : b = Memory.unlisted a := by simpa using h 0 (by simp)
    have e : Memory.writeByte [] a b = [] := by simp [Memory.writeByte, h0, Memory.removeEntry]
    simp only [Memory.writeBytes, e]
    exact ih (a + 1) (fun k hk => by
      have := h (k + 1) (by simpa using hk)
      rw [show a + 1 + k = a + (k + 1) by omega]
      simpa using this)

end Sys2Proof.Machine
end

