-- ==== Sys2Proof/Laws/State.lean ====
section
/-!
SUPPORT. One lemma per field per named update of State, each true by rfl, so that no proof unfolds a record update; and
the two lemmas of reading a register after writing one.
-/
namespace Sys2Proof.Machine

section Fields
variable (s : State)

/-! `State.setV` -/

@[simp] theorem State.setV_v (x : Reg) (b : Byte) : (s.setV x b).v = s.v.set x b := rfl
@[simp] theorem State.setV_i (x : Reg) (b : Byte) : (s.setV x b).i = s.i := rfl
@[simp] theorem State.setV_pc (x : Reg) (b : Byte) : (s.setV x b).pc = s.pc := rfl
@[simp] theorem State.setV_sp (x : Reg) (b : Byte) : (s.setV x b).sp = s.sp := rfl
@[simp] theorem State.setV_stk (x : Reg) (b : Byte) : (s.setV x b).stk = s.stk := rfl
@[simp] theorem State.setV_dt (x : Reg) (b : Byte) : (s.setV x b).dt = s.dt := rfl
@[simp] theorem State.setV_st (x : Reg) (b : Byte) : (s.setV x b).st = s.st := rfl
@[simp] theorem State.setV_tref (x : Reg) (b : Byte) : (s.setV x b).tref = s.tref := rfl
@[simp] theorem State.setV_key (x : Reg) (b : Byte) : (s.setV x b).key = s.key := rfl
@[simp] theorem State.setV_fb (x : Reg) (b : Byte) : (s.setV x b).fb = s.fb := rfl
@[simp] theorem State.setV_dirty (x : Reg) (b : Byte) : (s.setV x b).dirty = s.dirty := rfl
@[simp] theorem State.setV_ir (x : Reg) (b : Byte) : (s.setV x b).ir = s.ir := rfl
@[simp] theorem State.setV_mem (x : Reg) (b : Byte) : (s.setV x b).mem = s.mem := rfl
@[simp] theorem State.setV_now (x : Reg) (b : Byte) : (s.setV x b).now = s.now := rfl
@[simp] theorem State.setV_rand (x : Reg) (b : Byte) : (s.setV x b).rand = s.rand := rfl
@[simp] theorem State.setV_warn (x : Reg) (b : Byte) : (s.setV x b).warn = s.warn := rfl
@[simp] theorem State.setV_stepNo (x : Reg) (b : Byte) : (s.setV x b).stepNo = s.stepNo := rfl

/-! `State.setRegisters` -/

@[simp] theorem State.setRegisters_v (v : Vector Byte 16) : (s.setRegisters v).v = v := rfl
@[simp] theorem State.setRegisters_i (v : Vector Byte 16) : (s.setRegisters v).i = s.i := rfl
@[simp] theorem State.setRegisters_pc (v : Vector Byte 16) : (s.setRegisters v).pc = s.pc := rfl
@[simp] theorem State.setRegisters_sp (v : Vector Byte 16) : (s.setRegisters v).sp = s.sp := rfl
@[simp] theorem State.setRegisters_stk (v : Vector Byte 16) : (s.setRegisters v).stk = s.stk := rfl
@[simp] theorem State.setRegisters_dt (v : Vector Byte 16) : (s.setRegisters v).dt = s.dt := rfl
@[simp] theorem State.setRegisters_st (v : Vector Byte 16) : (s.setRegisters v).st = s.st := rfl
@[simp] theorem State.setRegisters_tref (v : Vector Byte 16) : (s.setRegisters v).tref = s.tref := rfl
@[simp] theorem State.setRegisters_key (v : Vector Byte 16) : (s.setRegisters v).key = s.key := rfl
@[simp] theorem State.setRegisters_fb (v : Vector Byte 16) : (s.setRegisters v).fb = s.fb := rfl
@[simp] theorem State.setRegisters_dirty (v : Vector Byte 16) : (s.setRegisters v).dirty = s.dirty := rfl
@[simp] theorem State.setRegisters_ir (v : Vector Byte 16) : (s.setRegisters v).ir = s.ir := rfl
@[simp] theorem State.setRegisters_mem (v : Vector Byte 16) : (s.setRegisters v).mem = s.mem := rfl
@[simp] theorem State.setRegisters_now (v : Vector Byte 16) : (s.setRegisters v).now = s.now := rfl
@[simp] theorem State.setRegisters_rand (v : Vector Byte 16) : (s.setRegisters v).rand = s.rand := rfl
@[simp] theorem State.setRegisters_warn (v : Vector Byte 16) : (s.setRegisters v).warn = s.warn := rfl
@[simp] theorem State.setRegisters_stepNo (v : Vector Byte 16) : (s.setRegisters v).stepNo = s.stepNo := rfl

/-! `State.setI` -/

@[simp] theorem State.setI_v (w : Word) : (s.setI w).v = s.v := rfl
@[simp] theorem State.setI_i (w : Word) : (s.setI w).i = w := rfl
@[simp] theorem State.setI_pc (w : Word) : (s.setI w).pc = s.pc := rfl
@[simp] theorem State.setI_sp (w : Word) : (s.setI w).sp = s.sp := rfl
@[simp] theorem State.setI_stk (w : Word) : (s.setI w).stk = s.stk := rfl
@[simp] theorem State.setI_dt (w : Word) : (s.setI w).dt = s.dt := rfl
@[simp] theorem State.setI_st (w : Word) : (s.setI w).st = s.st := rfl
@[simp] theorem State.setI_tref (w : Word) : (s.setI w).tref = s.tref := rfl
@[simp] theorem State.setI_key (w : Word) : (s.setI w).key = s.key := rfl
@[simp] theorem State.setI_fb (w : Word) : (s.setI w).fb = s.fb := rfl
@[simp] theorem State.setI_dirty (w : Word) : (s.setI w).dirty = s.dirty := rfl
@[simp] theorem State.setI_ir (w : Word) : (s.setI w).ir = s.ir := rfl
@[simp] theorem State.setI_mem (w : Word) : (s.setI w).mem = s.mem := rfl
@[simp] theorem State.setI_now (w : Word) : (s.setI w).now = s.now := rfl
@[simp] theorem State.setI_rand (w : Word) : (s.setI w).rand = s.rand := rfl
@[simp] theorem State.setI_warn (w : Word) : (s.setI w).warn = s.warn := rfl
@[simp] theorem State.setI_stepNo (w : Word) : (s.setI w).stepNo = s.stepNo := rfl

/-! `State.setPc` -/

@[simp] theorem State.setPc_v (w : Word) : (s.setPc w).v = s.v := rfl
@[simp] theorem State.setPc_i (w : Word) : (s.setPc w).i = s.i := rfl
@[simp] theorem State.setPc_pc (w : Word) : (s.setPc w).pc = w := rfl
@[simp] theorem State.setPc_sp (w : Word) : (s.setPc w).sp = s.sp := rfl
@[simp] theorem State.setPc_stk (w : Word) : (s.setPc w).stk = s.stk := rfl
@[simp] theorem State.setPc_dt (w : Word) : (s.setPc w).dt = s.dt := rfl
@[simp] theorem State.setPc_st (w : Word) : (s.setPc w).st = s.st := rfl
@[simp] theorem State.setPc_tref (w : Word) : (s.setPc w).tref = s.tref := rfl
@[simp] theorem State.setPc_key (w : Word) : (s.setPc w).key = s.key := rfl
@[simp] theorem State.setPc_fb (w : Word) : (s.setPc w).fb = s.fb := rfl
@[simp] theorem State.setPc_dirty (w : Word) : (s.setPc w).dirty = s.dirty := rfl
@[simp] theorem State.setPc_ir (w : Word) : (s.setPc w).ir = s.ir := rfl
@[simp] theorem State.setPc_mem (w : Word) : (s.setPc w).mem = s.mem := rfl
@[simp] theorem State.setPc_now (w : Word) : (s.setPc w).now = s.now := rfl
@[simp] theorem State.setPc_rand (w : Word) : (s.setPc w).rand = s.rand := rfl
@[simp] theorem State.setPc_warn (w : Word) : (s.setPc w).warn = s.warn := rfl
@[simp] theorem State.setPc_stepNo (w : Word) : (s.setPc w).stepNo = s.stepNo := rfl

/-! `State.setSp` -/

@[simp] theorem State.setSp_v (b : Byte) : (s.setSp b).v = s.v := rfl
@[simp] theorem State.setSp_i (b : Byte) : (s.setSp b).i = s.i := rfl
@[simp] theorem State.setSp_pc (b : Byte) : (s.setSp b).pc = s.pc := rfl
@[simp] theorem State.setSp_sp (b : Byte) : (s.setSp b).sp = b := rfl
@[simp] theorem State.setSp_stk (b : Byte) : (s.setSp b).stk = s.stk := rfl
@[simp] theorem State.setSp_dt (b : Byte) : (s.setSp b).dt = s.dt := rfl
@[simp] theorem State.setSp_st (b : Byte) : (s.setSp b).st = s.st := rfl
@[simp] theorem State.setSp_tref (b : Byte) : (s.setSp b).tref = s.tref := rfl
@[simp] theorem State.setSp_key (b : Byte) : (s.setSp b).key = s.key := rfl
@[simp] theorem State.setSp_fb (b : Byte) : (s.setSp b).fb = s.fb := rfl
@[simp] theorem State.setSp_dirty (b : Byte) : (s.setSp b).dirty = s.dirty := rfl
@[simp] theorem State.setSp_ir (b : Byte) : (s.setSp b).ir = s.ir := rfl
@[simp] theorem State.setSp_mem (b : Byte) : (s.setSp b).mem = s.mem := rfl
@[simp] theorem State.setSp_now (b : Byte) : (s.setSp b).now = s.now := rfl
@[simp] theorem State.setSp_rand (b : Byte) : (s.setSp b).rand = s.rand := rfl
@[simp] theorem State.setSp_warn (b : Byte) : (s.setSp b).warn = s.warn := rfl
@[simp] theorem State.setSp_stepNo (b : Byte) : (s.setSp b).stepNo = s.stepNo := rfl

/-! `State.setStk` -/

@[simp] theorem State.setStk_v (j : Fin 16) (w : Word) : (s.setStk j w).v = s.v := rfl
@[simp] theorem State.setStk_i (j : Fin 16) (w : Word) : (s.setStk j w).i = s.i := rfl
@[simp] theorem State.setStk_pc (j : Fin 16) (w : Word) : (s.setStk j w).pc = s.pc := rfl
@[simp] theorem State.setStk_sp (j : Fin 16) (w : Word) : (s.setStk j w).sp = s.sp := rfl
@[simp] theorem State.setStk_stk (j : Fin 16) (w : Word) : (s.setStk j w).stk = s.stk.set j w := rfl
@[simp] theorem State.setStk_dt (j : Fin 16) (w : Word) : (s.setStk j w).dt = s.dt := rfl
@[simp] theorem State.setStk_st (j : Fin 16) (w : Word) : (s.setStk j w).st = s.st := rfl
@[simp] theorem State.setStk_tref (j : Fin 16) (w : Word) : (s.setStk j w).tref = s.tref := rfl
@[simp] theorem State.setStk_key (j : Fin 16) (w : Word) : (s.setStk j w).key = s.key := rfl
@[simp] theorem State.setStk_fb (j : Fin 16) (w : Word) : (s.setStk j w).fb = s.fb := rfl
@[simp] theorem State.setStk_dirty (j : Fin 16) (w : Word) : (s.setStk j w).dirty = s.dirty := rfl
@[simp] theorem State.setStk_ir (j : Fin 16) (w : Word) : (s.setStk j w).ir = s.ir := rfl
@[simp] theorem State.setStk_mem (j : Fin 16) (w : Word) : (s.setStk j w).mem = s.mem := rfl
@[simp] theorem State.setStk_now (j : Fin 16) (w : Word) : (s.setStk j w).now = s.now := rfl
@[simp] theorem State.setStk_rand (j : Fin 16) (w : Word) : (s.setStk j w).rand = s.rand := rfl
@[simp] theorem State.setStk_warn (j : Fin 16) (w : Word) : (s.setStk j w).warn = s.warn := rfl
@[simp] theorem State.setStk_stepNo (j : Fin 16) (w : Word) : (s.setStk j w).stepNo = s.stepNo := rfl

/-! `State.setDt` -/

@[simp] theorem State.setDt_v (b : Byte) : (s.setDt b).v = s.v := rfl
@[simp] theorem State.setDt_i (b : Byte) : (s.setDt b).i = s.i := rfl
@[simp] theorem State.setDt_pc (b : Byte) : (s.setDt b).pc = s.pc := rfl
@[simp] theorem State.setDt_sp (b : Byte) : (s.setDt b).sp = s.sp := rfl
@[simp] theorem State.setDt_stk (b : Byte) : (s.setDt b).stk = s.stk := rfl
@[simp] theorem State.setDt_dt (b : Byte) : (s.setDt b).dt = b := rfl
@[simp] theorem State.setDt_st (b : Byte) : (s.setDt b).st = s.st := rfl
@[simp] theorem State.setDt_tref (b : Byte) : (s.setDt b).tref = s.tref := rfl
@[simp] theorem State.setDt_key (b : Byte) : (s.setDt b).key = s.key := rfl
@[simp] theorem State.setDt_fb (b : Byte) : (s.setDt b).fb = s.fb := rfl
@[simp] theorem State.setDt_dirty (b : Byte) : (s.setDt b).dirty = s.dirty := rfl
@[simp] theorem State.setDt_ir (b : Byte) : (s.setDt b).ir = s.ir := rfl
@[simp] theorem State.setDt_mem (b : Byte) : (s.setDt b).mem = s.mem := rfl
@[simp] theorem State.setDt_now (b : Byte) : (s.setDt b).now = s.now := rfl
@[simp] theorem State.setDt_rand (b : Byte) : (s.setDt b).rand = s.rand := rfl
@[simp] theorem State.setDt_warn (b : Byte) : (s.setDt b).warn = s.warn := rfl
@[simp] theorem State.setDt_stepNo (b : Byte) : (s.setDt b).stepNo = s.stepNo := rfl

/-! `State.setSt` -/

@[simp] theorem State.setSt_v (b : Byte) : (s.setSt b).v = s.v := rfl
@[simp] theorem State.setSt_i (b : Byte) : (s.setSt b).i = s.i := rfl
@[simp] theorem State.setSt_pc (b : Byte) : (s.setSt b).pc = s.pc := rfl
@[simp] theorem State.setSt_sp (b : Byte) : (s.setSt b).sp = s.sp := rfl
@[simp] theorem State.setSt_stk (b : Byte) : (s.setSt b).stk = s.stk := rfl
@[simp] theorem State.setSt_dt (b : Byte) : (s.setSt b).dt = s.dt := rfl
@[simp] theorem State.setSt_st (b : Byte) : (s.setSt b).st = b := rfl
@[simp] theorem State.setSt_tref (b : Byte) : (s.setSt b).tref = s.tref := rfl
@[simp] theorem State.setSt_key (b : Byte) : (s.setSt b).key = s.key := rfl
@[simp] theorem State.setSt_fb (b : Byte) : (s.setSt b).fb = s.fb := rfl
@[simp] theorem State.setSt_dirty (b : Byte) : (s.setSt b).dirty = s.dirty := rfl
@[simp] theorem State.setSt_ir (b : Byte) : (s.setSt b).ir = s.ir := rfl
@[simp] theorem State.setSt_mem (b : Byte) : (s.setSt b).mem = s.mem := rfl
@[simp] theorem State.setSt_now (b : Byte) : (s.setSt b).now = s.now := rfl
@[simp] theorem State.setSt_rand (b : Byte) : (s.setSt b).rand = s.rand := rfl
@[simp] theorem State.setSt_warn (b : Byte) : (s.setSt b).warn = s.warn := rfl
@[simp] theorem State.setSt_stepNo (b : Byte) : (s.setSt b).stepNo = s.stepNo := rfl

/-! `State.setTref` -/

@[simp] theorem State.setTref_v (n : Nat) : (s.setTref n).v = s.v := rfl
@[simp] theorem State.setTref_i (n : Nat) : (s.setTref n).i = s.i := rfl
@[simp] theorem State.setTref_pc (n : Nat) : (s.setTref n).pc = s.pc := rfl
@[simp] theorem State.setTref_sp (n : Nat) : (s.setTref n).sp = s.sp := rfl
@[simp] theorem State.setTref_stk (n : Nat) : (s.setTref n).stk = s.stk := rfl
@[simp] theorem State.setTref_dt (n : Nat) : (s.setTref n).dt = s.dt := rfl
@[simp] theorem State.setTref_st (n : Nat) : (s.setTref n).st = s.st := rfl
@[simp] theorem State.setTref_tref (n : Nat) : (s.setTref n).tref = n := rfl
@[simp] theorem State.setTref_key (n : Nat) : (s.setTref n).key = s.key := rfl
@[simp] theorem State.setTref_fb (n : Nat) : (s.setTref n).fb = s.fb := rfl
@[simp] theorem State.setTref_dirty (n : Nat) : (s.setTref n).dirty = s.dirty := rfl
@[simp] theorem State.setTref_ir (n : Nat) : (s.setTref n).ir = s.ir := rfl
@[simp] theorem State.setTref_mem (n : Nat) : (s.setTref n).mem = s.mem := rfl
@[simp] theorem State.setTref_now (n : Nat) : (s.setTref n).now = s.now := rfl
@[simp] theorem State.setTref_rand (n : Nat) : (s.setTref n).rand = s.rand := rfl
@[simp] theorem State.setTref_warn (n : Nat) : (s.setTref n).warn = s.warn := rfl
@[simp] theorem State.setTref_stepNo (n : Nat) : (s.setTref n).stepNo = s.stepNo := rfl

/-! `State.setKeyCell` -/

@[simp] theorem State.setKeyCell_v (k : Fin 16) (d : Bool) : (s.setKeyCell k d).v = s.v := rfl
@[simp] theorem State.setKeyCell_i (k : Fin 16) (d : Bool) : (s.setKeyCell k d).i = s.i := rfl
@[simp] theorem State.setKeyCell_pc (k : Fin 16) (d : Bool) : (s.setKeyCell k d).pc = s.pc := rfl
@[simp] theorem State.setKeyCell_sp (k : Fin 16) (d : Bool) : (s.setKeyCell k d).sp = s.sp := rfl
@[simp] theorem State.setKeyCell_stk (k : Fin 16) (d : Bool) : (s.setKeyCell k d).stk = s.stk := rfl
@[simp] theorem State.setKeyCell_dt (k : Fin 16) (d : Bool) : (s.setKeyCell k d).dt = s.dt := rfl
@[simp] theorem State.setKeyCell_st (k : Fin 16) (d : Bool) : (s.setKeyCell k d).st = s.st := rfl
@[simp] theorem State.setKeyCell_tref (k : Fin 16) (d : Bool) : (s.setKeyCell k d).tref = s.tref := rfl
@[simp] theorem State.setKeyCell_key (k : Fin 16) (d : Bool) : (s.setKeyCell k d).key = s.key.set k d := rfl
@[simp] theorem State.setKeyCell_fb (k : Fin 16) (d : Bool) : (s.setKeyCell k d).fb = s.fb := rfl
@[simp] theorem State.setKeyCell_dirty (k : Fin 16) (d : Bool) : (s.setKeyCell k d).dirty = s.dirty := rfl
@[simp] theorem State.setKeyCell_ir (k : Fin 16) (d : Bool) : (s.setKeyCell k d).ir = s.ir := rfl
@[simp] theorem State.setKeyCell_mem (k : Fin 16) (d : Bool) : (s.setKeyCell k d).mem = s.mem := rfl
@[simp] theorem State.setKeyCell_now (k : Fin 16) (d : Bool) : (s.setKeyCell k d).now = s.now := rfl
@[simp] theorem State.setKeyCell_rand (k : Fin 16) (d : Bool) : (s.setKeyCell k d).rand = s.rand := rfl
@[simp] theorem State.setKeyCell_warn (k : Fin 16) (d : Bool) : (s.setKeyCell k d).warn = s.warn := rfl
@[simp] theorem State.setKeyCell_stepNo (k : Fin 16) (d : Bool) : (s.setKeyCell k d).stepNo = s.stepNo := rfl

/-! `State.setKeys` -/

@[simp] theorem State.setKeys_v (key : Vector Bool 16) : (s.setKeys key).v = s.v := rfl
@[simp] theorem State.setKeys_i (key : Vector Bool 16) : (s.setKeys key).i = s.i := rfl
@[simp] theorem State.setKeys_pc (key : Vector Bool 16) : (s.setKeys key).pc = s.pc := rfl
@[simp] theorem State.setKeys_sp (key : Vector Bool 16) : (s.setKeys key).sp = s.sp := rfl
@[simp] theorem State.setKeys_stk (key : Vector Bool 16) : (s.setKeys key).stk = s.stk := rfl
@[simp] theorem State.setKeys_dt (key : Vector Bool 16) : (s.setKeys key).dt = s.dt := rfl
@[simp] theorem State.setKeys_st (key : Vector Bool 16) : (s.setKeys key).st = s.st := rfl
@[simp] theorem State.setKeys_tref (key : Vector Bool 16) : (s.setKeys key).tref = s.tref := rfl
@[simp] theorem State.setKeys_key (key : Vector Bool 16) : (s.setKeys key).key = key := rfl
@[simp] theorem State.setKeys_fb (key : Vector Bool 16) : (s.setKeys key).fb = s.fb := rfl
@[simp] theorem State.setKeys_dirty (key : Vector Bool 16) : (s.setKeys key).dirty = s.dirty := rfl
@[simp] theorem State.setKeys_ir (key : Vector Bool 16) : (s.setKeys key).ir = s.ir := rfl
@[simp] theorem State.setKeys_mem (key : Vector Bool 16) : (s.setKeys key).mem = s.mem := rfl
@[simp] theorem State.setKeys_now (key : Vector Bool 16) : (s.setKeys key).now = s.now := rfl
@[simp] theorem State.setKeys_rand (key : Vector Bool 16) : (s.setKeys key).rand = s.rand := rfl
@[simp] theorem State.setKeys_warn (key : Vector Bool 16) : (s.setKeys key).warn = s.warn := rfl
@[simp] theorem State.setKeys_stepNo (key : Vector Bool 16) : (s.setKeys key).stepNo = s.stepNo := rfl

/-! `State.setFb` -/

@[simp] theorem State.setFb_v (f : Framebuffer) : (s.setFb f).v = s.v := rfl
@[simp] theorem State.setFb_i (f : Framebuffer) : (s.setFb f).i = s.i := rfl
@[simp] theorem State.setFb_pc (f : Framebuffer) : (s.setFb f).pc = s.pc := rfl
@[simp] theorem State.setFb_sp (f : Framebuffer) : (s.setFb f).sp = s.sp := rfl
@[simp] theorem State.setFb_stk (f : Framebuffer) : (s.setFb f).stk = s.stk := rfl
@[simp] theorem State.setFb_dt (f : Framebuffer) : (s.setFb f).dt = s.dt := rfl
@[simp] theorem State.setFb_st (f : Framebuffer) : (s.setFb f).st = s.st := rfl
@[simp] theorem State.setFb_tref (f : Framebuffer) : (s.setFb f).tref = s.tref := rfl
@[simp] theorem State.setFb_key (f : Framebuffer) : (s.setFb f).key = s.key := rfl
@[simp] theorem State.setFb_fb (f : Framebuffer) : (s.setFb f).fb = f := rfl
@[simp] theorem State.setFb_dirty (f : Framebuffer) : (s.setFb f).dirty = s.dirty := rfl
@[simp] theorem State.setFb_ir (f : Framebuffer) : (s.setFb f).ir = s.ir := rfl
@[simp] theorem State.setFb_mem (f : Framebuffer) : (s.setFb f).mem = s.mem := rfl
@[simp] theorem State.setFb_now (f : Framebuffer) : (s.setFb f).now = s.now := rfl
@[simp] theorem State.setFb_rand (f : Framebuffer) : (s.setFb f).rand = s.rand := rfl
@[simp] theorem State.setFb_warn (f : Framebuffer) : (s.setFb f).warn = s.warn := rfl
@[simp] theorem State.setFb_stepNo (f : Framebuffer) : (s.setFb f).stepNo = s.stepNo := rfl

/-! `State.setDirty` -/

@[simp] theorem State.setDirty_v (d : Bool) : (s.setDirty d).v = s.v := rfl
@[simp] theorem State.setDirty_i (d : Bool) : (s.setDirty d).i = s.i := rfl
@[simp] theorem State.setDirty_pc (d : Bool) : (s.setDirty d).pc = s.pc := rfl
@[simp] theorem State.setDirty_sp (d : Bool) : (s.setDirty d).sp = s.sp := rfl
@[simp] theorem State.setDirty_stk (d : Bool) : (s.setDirty d).stk = s.stk := rfl
@[simp] theorem State.setDirty_dt (d : Bool) : (s.setDirty d).dt = s.dt := rfl
@[simp] theorem State.setDirty_st (d : Bool) : (s.setDirty d).st = s.st := rfl
@[simp] theorem State.setDirty_tref (d : Bool) : (s.setDirty d).tref = s.tref := rfl
@[simp] theorem State.setDirty_key (d : Bool) : (s.setDirty d).key = s.key := rfl
@[simp] theorem State.setDirty_fb (d : Bool) : (s.setDirty d).fb = s.fb := rfl
@[simp] theorem State.setDirty_dirty (d : Bool) : (s.setDirty d).dirty = d := rfl
@[simp] theorem State.setDirty_ir (d : Bool) : (s.setDirty d).ir = s.ir := rfl
@[simp] theorem State.setDirty_mem (d : Bool) : (s.setDirty d).mem = s.mem := rfl
@[simp] theorem State.setDirty_now (d : Bool) : (s.setDirty d).now = s.now := rfl
@[simp] theorem State.setDirty_rand (d : Bool) : (s.setDirty d).rand = s.rand := rfl
@[simp] theorem State.setDirty_warn (d : Bool) : (s.setDirty d).warn = s.warn := rfl
@[simp] theorem State.setDirty_stepNo (d : Bool) : (s.setDirty d).stepNo = s.stepNo := rfl

/-! `State.setIr` -/

@[simp] theorem State.setIr_v (w : Word) : (s.setIr w).v = s.v := rfl
@[simp] theorem State.setIr_i (w : Word) : (s.setIr w).i = s.i := rfl
@[simp] theorem State.setIr_pc (w : Word) : (s.setIr w).pc = s.pc := rfl
@[simp] theorem State.setIr_sp (w : Word) : (s.setIr w).sp = s.sp := rfl
@[simp] theorem State.setIr_stk (w : Word) : (s.setIr w).stk = s.stk := rfl
@[simp] theorem State.setIr_dt (w : Word) : (s.setIr w).dt = s.dt := rfl
@[simp] theorem State.setIr_st (w : Word) : (s.setIr w).st = s.st := rfl
@[simp] theorem State.setIr_tref (w : Word) : (s.setIr w).tref = s.tref := rfl
@[simp] theorem State.setIr_key (w : Word) : (s.setIr w).key = s.key := rfl
@[simp] theorem State.setIr_fb (w : Word) : (s.setIr w).fb = s.fb := rfl
@[simp] theorem State.setIr_dirty (w : Word) : (s.setIr w).dirty = s.dirty := rfl
@[simp] theorem State.setIr_ir (w : Word) : (s.setIr w).ir = w := rfl
@[simp] theorem State.setIr_mem (w : Word) : (s.setIr w).mem = s.mem := rfl
@[simp] theorem State.setIr_now (w : Word) : (s.setIr w).now = s.now := rfl
@[simp] theorem State.setIr_rand (w : Word) : (s.setIr w).rand = s.rand := rfl
@[simp] theorem State.setIr_warn (w : Word) : (s.setIr w).warn = s.warn := rfl
@[simp] theorem State.setIr_stepNo (w : Word) : (s.setIr w).stepNo = s.stepNo := rfl

/-! `State.setMem` -/

@[simp] theorem State.setMem_v (m : Memory) : (s.setMem m).v = s.v := rfl
@[simp] theorem State.setMem_i (m : Memory) : (s.setMem m).i = s.i := rfl
@[simp] theorem State.setMem_pc (m : Memory) : (s.setMem m).pc = s.pc := rfl
@[simp] theorem State.setMem_sp (m : Memory) : (s.setMem m).sp = s.sp := rfl
@[simp] theorem State.setMem_stk (m : Memory) : (s.setMem m).stk = s.stk := rfl
@[simp] theorem State.setMem_dt (m : Memory) : (s.setMem m).dt = s.dt := rfl
@[simp] theorem State.setMem_st (m : Memory) : (s.setMem m).st = s.st := rfl
@[simp] theorem State.setMem_tref (m : Memory) : (s.setMem m).tref = s.tref := rfl
@[simp] theorem State.setMem_key (m : Memory) : (s.setMem m).key = s.key := rfl
@[simp] theorem State.setMem_fb (m : Memory) : (s.setMem m).fb = s.fb := rfl
@[simp] theorem State.setMem_dirty (m : Memory) : (s.setMem m).dirty = s.dirty := rfl
@[simp] theorem State.setMem_ir (m : Memory) : (s.setMem m).ir = s.ir := rfl
@[simp] theorem State.setMem_mem (m : Memory) : (s.setMem m).mem = m := rfl
@[simp] theorem State.setMem_now (m : Memory) : (s.setMem m).now = s.now := rfl
@[simp] theorem State.setMem_rand (m : Memory) : (s.setMem m).rand = s.rand := rfl
@[simp] theorem State.setMem_warn (m : Memory) : (s.setMem m).warn = s.warn := rfl
@[simp] theorem State.setMem_stepNo (m : Memory) : (s.setMem m).stepNo = s.stepNo := rfl

/-! `State.setWarn` -/

@[simp] theorem State.setWarn_v (d : Bool) : (s.setWarn d).v = s.v := rfl
@[simp] theorem State.setWarn_i (d : Bool) : (s.setWarn d).i = s.i := rfl
@[simp] theorem State.setWarn_pc (d : Bool) : (s.setWarn d).pc = s.pc := rfl
@[simp] theorem State.setWarn_sp (d : Bool) : (s.setWarn d).sp = s.sp := rfl
@[simp] theorem State.setWarn_stk (d : Bool) : (s.setWarn d).stk = s.stk := rfl
@[simp] theorem State.setWarn_dt (d : Bool) : (s.setWarn d).dt = s.dt := rfl
@[simp] theorem State.setWarn_st (d : Bool) : (s.setWarn d).st = s.st := rfl
@[simp] theorem State.setWarn_tref (d : Bool) : (s.setWarn d).tref = s.tref := rfl
@[simp] theorem State.setWarn_key (d : Bool) : (s.setWarn d).key = s.key := rfl
@[simp] theorem State.setWarn_fb (d : Bool) : (s.setWarn d).fb = s.fb := rfl
@[simp] theorem State.setWarn_dirty (d : Bool) : (s.setWarn d).dirty = s.dirty := rfl
@[simp] theorem State.setWarn_ir (d : Bool) : (s.setWarn d).ir = s.ir := rfl
@[simp] theorem State.setWarn_mem (d : Bool) : (s.setWarn d).mem = s.mem := rfl
@[simp] theorem State.setWarn_now (d : Bool) : (s.setWarn d).now = s.now := rfl
@[simp] theorem State.setWarn_rand (d : Bool) : (s.setWarn d).rand = s.rand := rfl
@[simp] theorem State.setWarn_warn (d : Bool) : (s.setWarn d).warn = d := rfl
@[simp] theorem State.setWarn_stepNo (d : Bool) : (s.setWarn d).stepNo = s.stepNo := rfl

/-! `State.setInputs` -/

@[simp] theorem State.setInputs_v (n : Nat) (r : Byte) : (s.setInputs n r).v = s.v := rfl
@[simp] theorem State.setInputs_i (n : Nat) (r : Byte) : (s.setInputs n r).i = s.i := rfl
@[simp] theorem State.setInputs_pc (n : Nat) (r : Byte) : (s.setInputs n r).pc = s.pc := rfl
@[simp] theorem State.setInputs_sp (n : Nat) (r : Byte) : (s.setInputs n r).sp = s.sp := rfl
@[simp] theorem State.setInputs_stk (n : Nat) (r : Byte) : (s.setInputs n r).stk = s.stk := rfl
@[simp] theorem State.setInputs_dt (n : Nat) (r : Byte) : (s.setInputs n r).dt = s.dt := rfl
@[simp] theorem State.setInputs_st (n : Nat) (r : Byte) : (s.setInputs n r).st = s.st := rfl
@[simp] theorem State.setInputs_tref (n : Nat) (r : Byte) : (s.setInputs n r).tref = s.tref := rfl
@[simp] theorem State.setInputs_key (n : Nat) (r : Byte) : (s.setInputs n r).key = s.key := rfl
@[simp] theorem State.setInputs_fb (n : Nat) (r : Byte) : (s.setInputs n r).fb = s.fb := rfl
@[simp] theorem State.setInputs_dirty (n : Nat) (r : Byte) : (s.setInputs n r).dirty = s.dirty := rfl
@[simp] theorem State.setInputs_ir (n : Nat) (r : Byte) : (s.setInputs n r).ir = s.ir := rfl
@[simp] theorem State.setInputs_mem (n : Nat) (r : Byte) : (s.setInputs n r).mem = s.mem := rfl
@[simp] theorem State.setInputs_now (n : Nat) (r : Byte) : (s.setInputs n r).now = n := rfl
@[simp] theorem State.setInputs_rand (n : Nat) (r : Byte) : (s.setInputs n r).rand = r := rfl
@[simp] theorem State.setInputs_warn (n : Nat) (r : Byte) : (s.setInputs n r).warn = s.warn := rfl
@[simp] theorem State.setInputs_stepNo (n : Nat) (r : Byte) : (s.setInputs n r).stepNo = s.stepNo := rfl

/-! `State.setStepNo` -/

@[simp] theorem State.setStepNo_v (n : Nat) : (s.setStepNo n).v = s.v := rfl
@[simp] theorem State.setStepNo_i (n : Nat) : (s.setStepNo n).i = s.i := rfl
@[simp] theorem State.setStepNo_pc (n : Nat) : (s.setStepNo n).pc = s.pc := rfl
@[simp] theorem State.setStepNo_sp (n : Nat) : (s.setStepNo n).sp = s.sp := rfl
@[simp] theorem State.setStepNo_stk (n : Nat) : (s.setStepNo n).stk = s.stk := rfl
@[simp] theorem State.setStepNo_dt (n : Nat) : (s.setStepNo n).dt = s.dt := rfl
@[simp] theorem State.setStepNo_st (n : Nat) : (s.setStepNo n).st = s.st := rfl
@[simp] theorem State.setStepNo_tref (n : Nat) : (s.setStepNo n).tref = s.tref := rfl
@[simp] theorem State.setStepNo_key (n : Nat) : (s.setStepNo n).key = s.key := rfl
@[simp] theorem State.setStepNo_fb (n : Nat) : (s.setStepNo n).fb = s.fb := rfl
@[simp] theorem State.setStepNo_dirty (n : Nat) : (s.setStepNo n).dirty = s.dirty := rfl
@[simp] theorem State.setStepNo_ir (n : Nat) : (s.setStepNo n).ir = s.ir := rfl
@[simp] theorem State.setStepNo_mem (n : Nat) : (s.setStepNo n).mem = s.mem := rfl
@[simp] theorem State.setStepNo_now (n : Nat) : (s.setStepNo n).now = s.now := rfl
@[simp] theorem State.setStepNo_rand (n : Nat) : (s.setStepNo n).rand = s.rand := rfl
@[simp] theorem State.setStepNo_warn (n : Nat) : (s.setStepNo n).warn = s.warn := rfl
@[simp] theorem State.setStepNo_stepNo (n : Nat) : (s.setStepNo n).stepNo = n := rfl

end Fields

/-! Registers -/

/-- The register written reads as what was written. -/
@[simp] theorem State.getV_setV_same (s : State) (x : Reg) (b : Byte) : (s.setV x b).getV x = b := by
  simp [State.getV]

/-- Every other register reads as before. -/
theorem State.getV_setV_ne (s : State) {x k : Reg} (b : Byte) (h : k ≠ x) : (s.setV x b).getV k = s.getV k := by
  have h' : x.val ≠ k.val := fun e => h (Fin.ext e.symm)
  simp [State.getV, Vector.getElem_set_ne, h']

/-- Reading any register after a write. -/
theorem State.getV_setV (s : State) (x k : Reg) (b : Byte) :
    (s.setV x b).getV k = if k = x then b else s.getV k := by
  by_cases h : k = x
  · subst h
    simp
  · simp [h, State.getV_setV_ne]

@[simp] theorem State.getV_setI (s : State) (w : Word) (z : Reg) : (s.setI w).getV z = s.getV z := rfl
@[simp] theorem State.getV_setPc (s : State) (w : Word) (z : Reg) : (s.setPc w).getV z = s.getV z := rfl
@[simp] theorem State.getV_setSp (s : State) (b : Byte) (z : Reg) : (s.setSp b).getV z = s.getV z := rfl
@[simp] theorem State.getV_setStk (s : State) (j : Fin 16) (w : Word) (z : Reg) : (s.setStk j w).getV z = s.getV z := rfl
@[simp] theorem State.getV_setDt (s : State) (b : Byte) (z : Reg) : (s.setDt b).getV z = s.getV z := rfl
@[simp] theorem State.getV_setSt (s : State) (b : Byte) (z : Reg) : (s.setSt b).getV z = s.getV z := rfl
@[simp] theorem State.getV_setTref (s : State) (n : Nat) (z : Reg) : (s.setTref n).getV z = s.getV z := rfl
@[simp] theorem State.getV_setKeyCell (s : State) (k : Fin 16) (d : Bool) (z : Reg) : (s.setKeyCell k d).getV z = s.getV z := rfl
@[simp] theorem State.getV_setKeys (s : State) (key : Vector Bool 16) (z : Reg) : (s.setKeys key).getV z = s.getV z := rfl
@[simp] theorem State.getV_setFb (s : State) (f : Framebuffer) (z : Reg) : (s.setFb f).getV z = s.getV z := rfl
@[simp] theorem State.getV_setDirty (s : State) (d : Bool) (z : Reg) : (s.setDirty d).getV z = s.getV z := rfl
@[simp] theorem State.getV_setIr (s : State) (w : Word) (z : Reg) : (s.setIr w).getV z = s.getV z := rfl
@[simp] theorem State.getV_setMem (s : State) (m : Memory) (z : Reg) : (s.setMem m).getV z = s.getV z := rfl
@[simp] theorem State.getV_setWarn (s : State) (d : Bool) (z : Reg) : (s.setWarn d).getV z = s.getV z := rfl
@[simp] theorem State.getV_setInputs (s : State) (n : Nat) (r : Byte) (z : Reg) : (s.setInputs n r).getV z = s.getV z := rfl
@[simp] theorem State.getV_setStepNo (s : State) (n : Nat) (z : Reg) : (s.setStepNo n).getV z = s.getV z := rfl

/-- A replaced register file is read as it stands. -/
@[simp] theorem State.getV_setRegisters (s : State) (v : Vector Byte 16) (k : Reg) :
    (s.setRegisters v).getV k = v[k] := rfl

end Sys2Proof.Machine
end

