-- ==== Sys2Proof/Laws/Ops.lean ====
section
/-!
SUPPORT. What each shared operation of Machine/Ops.lean can do, said once: the stack, the skip, the timer phase, the fetch
and the post-check.
-/
namespace Sys2Proof.Machine

/-! ### The stack -/

theorem pushThen_of_room {w : Word} {k : State → State} {s : State} (h : s.sp.toNat < 16) :
    pushThen w k s = .next (k ((s.setStk ⟨s.sp.toNat, h⟩ w).setSp (s.sp + 1))) := by
  have h' : s.sp.toNat < Config.stackDepth := h
  simp only [pushThen, h', ↓reduceDIte]

theorem pushThen_full {w : Word} {k : State → State} {s : State} (h : s.sp.toNat = 16) :
    pushThen w k s = .fault (.stackOverflow s) := by
  simp [pushThen, raise, h]

/-- Everything a push can answer. -/
theorem pushThen_cases (w : Word) (k : State → State) (s : State) :
    (∃ h : s.sp.toNat < 16, pushThen w k s = .next (k ((s.setStk ⟨s.sp.toNat, h⟩ w).setSp (s.sp + 1)))) ∨
    (s.sp.toNat = 16 ∧ pushThen w k s = .fault (.stackOverflow s)) ∨
    (16 < s.sp.toNat ∧ pushThen w k s = .fault (.stackPointerBeyondStack s)) := by
  rcases Nat.lt_trichotomy s.sp.toNat 16 with h | h | h
  · exact .inl ⟨h, pushThen_of_room h⟩
  · exact .inr (.inl ⟨h, pushThen_full h⟩)
  · refine .inr (.inr ⟨h, ?_⟩)
    have h1 : ¬ s.sp.toNat < Config.stackDepth := by simp only [Config.stackDepth]; omega
    have h2 : ¬ s.sp.toNat = Config.stackDepth := by simp only [Config.stackDepth]; omega
    simp only [pushThen, h1, h2, ↓reduceDIte, ↓reduceIte, raise]

theorem popThen_empty {k : Word → State → State} {s : State} (h : s.sp = 0) :
    popThen k s = .fault (.stackUnderflow s) := by
  simp [popThen, raise, h]

theorem popThen_of_entry {k : Word → State → State} {s : State} (h0 : s.sp ≠ 0) (h : s.sp.toNat - 1 < 16) :
    popThen k s = .next (k s.stk[s.sp.toNat - 1] (s.setSp (s.sp - 1))) := by
  have h' : s.sp.toNat - 1 < Config.stackDepth := h
  unfold popThen
  rw [if_neg h0, dif_pos h']

/-- Everything a pop can answer. -/
theorem popThen_cases (k : Word → State → State) (s : State) :
    (s.sp = 0 ∧ popThen k s = .fault (.stackUnderflow s)) ∨
    (∃ h : s.sp.toNat - 1 < 16, s.sp ≠ 0 ∧ popThen k s = .next (k s.stk[s.sp.toNat - 1] (s.setSp (s.sp - 1)))) ∨
    (16 < s.sp.toNat ∧ popThen k s = .fault (.stackPointerBeyondStack s)) := by
  by_cases h0 : s.sp = 0
  · exact .inl ⟨h0, popThen_empty h0⟩
  · by_cases h : s.sp.toNat - 1 < 16
    · exact .inr (.inl ⟨h, h0, popThen_of_entry h0 h⟩)
    · refine .inr (.inr ⟨by omega, ?_⟩)
      have h' : ¬ s.sp.toNat - 1 < Config.stackDepth := h
      simp only [popThen, h0, h', ↓reduceDIte, ↓reduceIte, raise]

/-! ### The timer phase (40_step_cycle.md R101) -/

theorem countDown_toNat (t : Byte) : (countDown t).toNat = t.toNat - 1 := by
  revert t
  decide

theorem timerDue_iff (s : State) : timerDue s = true ↔ s.tref + 16667 ≤ s.now := by
  simp only [timerDue, Config.timerPeriodUs, decide_eq_true_eq]
  omega

@[simp] theorem timerPhase_dt (s : State) : (timerPhase s).dt = if timerDue s then countDown s.dt else s.dt := rfl
@[simp] theorem timerPhase_st (s : State) : (timerPhase s).st = if timerDue s then countDown s.st else s.st := rfl
@[simp] theorem timerPhase_tref (s : State) : (timerPhase s).tref = if timerDue s then s.now else s.tref := rfl
@[simp] theorem timerPhase_v (s : State) : (timerPhase s).v = s.v := rfl
@[simp] theorem timerPhase_getV (s : State) (x : Reg) : (timerPhase s).getV x = s.getV x := rfl
@[simp] theorem timerPhase_i (s : State) : (timerPhase s).i = s.i := rfl
@[simp] theorem timerPhase_pc (s : State) : (timerPhase s).pc = s.pc := rfl
@[simp] theorem timerPhase_sp (s : State) : (timerPhase s).sp = s.sp := rfl
@[simp] theorem timerPhase_stk (s : State) : (timerPhase s).stk = s.stk := rfl
@[simp] theorem timerPhase_key (s : State) : (timerPhase s).key = s.key := rfl
@[simp] theorem timerPhase_fb (s : State) : (timerPhase s).fb = s.fb := rfl
@[simp] theorem timerPhase_dirty (s : State) : (timerPhase s).dirty = s.dirty := rfl
@[simp] theorem timerPhase_ir (s : State) : (timerPhase s).ir = s.ir := rfl
@[simp] theorem timerPhase_mem (s : State) : (timerPhase s).mem = s.mem := rfl
@[simp] theorem timerPhase_now (s : State) : (timerPhase s).now = s.now := rfl
@[simp] theorem timerPhase_rand (s : State) : (timerPhase s).rand = s.rand := rfl
@[simp] theorem timerPhase_warn (s : State) : (timerPhase s).warn = s.warn := rfl
@[simp] theorem timerPhase_stepNo (s : State) : (timerPhase s).stepNo = s.stepNo := rfl

/-! ### Fetch (R102) -/

theorem readBytes_two (m : Memory) (a : Nat) : m.readBytes a 2 = [m.readByte a, m.readByte (a + 1)] := rfl

/-- The word that stands at PC. -/
theorem fetch_of_room {s : State} (h : s.pc.toNat + 2 ≤ 4096) :
    fetch s = some ((s.setIr (wordOfBytes (s.mem.readByte s.pc.toNat) (s.mem.readByte (s.pc.toNat + 1)))).setPc
      (s.pc + 2)) := by
  have e : memRead s.mem s.pc.toNat 2 = some [s.mem.readByte s.pc.toNat, s.mem.readByte (s.pc.toNat + 1)] :=
    memRead_eq_some.mpr ⟨h, (readBytes_two _ _).symm⟩
  simp only [fetch, e]

theorem fetch_beyond {s : State} (h : 4096 < s.pc.toNat + 2) : fetch s = none := by
  have e : memRead s.mem s.pc.toNat 2 = none := memRead_eq_none.mpr h
  simp only [fetch, e]

/-- Everything a fetch can answer. -/
theorem fetch_eq_some {s t : State} :
    fetch s = some t ↔ s.pc.toNat + 2 ≤ 4096 ∧
      t = (s.setIr (wordOfBytes (s.mem.readByte s.pc.toNat) (s.mem.readByte (s.pc.toNat + 1)))).setPc (s.pc + 2) := by
  by_cases h : s.pc.toNat + 2 ≤ 4096
  · rw [fetch_of_room h, Option.some.injEq]
    exact ⟨fun e => ⟨h, e.symm⟩, fun e => e.2.symm⟩
  · rw [fetch_beyond (by omega)]
    simp [h]

theorem fetch_eq_none {s : State} : fetch s = none ↔ 4096 < s.pc.toNat + 2 := by
  by_cases h : s.pc.toNat + 2 ≤ 4096
  · rw [fetch_of_room h]
    simp only [reduceCtorEq, false_iff]
    omega
  · rw [fetch_beyond (by omega)]
    simp only [true_iff]
    omega

/-! ### The post-check (R106) -/

/-- Everything the post-check lets pass. -/
theorem postCheck_eq_next {o : Host.Outcome State Fault Refusal} {t : State} :
    postCheck o = .next t ↔ o = .next t ∧ t.pc.toNat < 4096 := by
  cases o with
  | next u =>
    by_cases h : u.pc.toNat ≥ 4096
    · simp only [postCheck, Config.pcLimit, h, ↓reduceIte, raise, reduceCtorEq, Host.Outcome.next.injEq, false_iff,
        not_and]
      rintro rfl
      omega
    · simp only [postCheck, Config.pcLimit, h, ↓reduceIte, Host.Outcome.next.injEq]
      exact ⟨fun e => ⟨e, by subst e; omega⟩, fun e => e.1⟩
  | fault f => simp [postCheck]
  | refused r => simp [postCheck]

/-- Everything the post-check reports or hands on. -/
theorem postCheck_eq_fault {o : Host.Outcome State Fault Refusal} {f : Fault} :
    postCheck o = .fault f ↔ o = .fault f ∨
      ∃ t, o = .next t ∧ 4096 ≤ t.pc.toNat ∧ f = .programCounterOutOfRange t := by
  cases o with
  | next u =>
    by_cases h : u.pc.toNat ≥ 4096
    · simp only [postCheck, Config.pcLimit, h, ↓reduceIte, raise, Host.Outcome.fault.injEq, reduceCtorEq,
        Host.Outcome.next.injEq, false_or]
      exact ⟨fun e => ⟨u, rfl, h, e.symm⟩, fun ⟨t, e, _, e'⟩ => by rw [e', e]⟩
    · simp only [postCheck, Config.pcLimit, h, ↓reduceIte, reduceCtorEq, Host.Outcome.next.injEq, false_or, false_iff,
        not_exists, not_and]
      rintro t rfl ht
      omega
  | fault g => simp [postCheck]
  | refused r => simp [postCheck]

theorem postCheck_eq_refused {o : Host.Outcome State Fault Refusal} {r : Refusal} :
    postCheck o = .refused r ↔ o = .refused r := by
  cases o with
  | next u => by_cases h : u.pc.toNat ≥ 4096 <;> simp [postCheck, h, raise]
  | fault g => simp [postCheck]
  | refused r => simp [postCheck]

end Sys2Proof.Machine
end

