-- ==== Sys2Proof/Laws/Display.lean ====
section
/-!
SUPPORT. The compositor: a sprite as the list of the cells it meets, no cell twice, and from that what every cell and the
collision output are after it (44_display.md R191).
-/
namespace Sys2Proof.Machine

/-! ### One cell -/

/-- A cell after one cell was set. -/
theorem Framebuffer.cell_setCell (fb : Framebuffer) (cx cx' : Fin 64) (cy cy' : Fin 32) (b : Bool) :
    (fb.setCell cx cy b).cell cx' cy' = if cx' = cx ∧ cy' = cy then b else fb.cell cx' cy' := by
  by_cases hy : cy' = cy
  · subst hy
    by_cases hx : cx' = cx
    · subst hx
      simp [Framebuffer.cell, Framebuffer.setCell]
    · have : cx.val ≠ cx'.val := fun e => hx (Fin.ext e.symm)
      simp [Framebuffer.cell, Framebuffer.setCell, Vector.getElem_set_ne, hx, this]
  · have : cy.val ≠ cy'.val := fun e => hy (Fin.ext e.symm)
    simp [Framebuffer.cell, Framebuffer.setCell, Vector.getElem_set_ne, hy, this]

/-- Two framebuffers with the same cells are the same. -/
theorem Framebuffer.ext_cell {f g : Framebuffer} (h : ∀ cx cy, f.cell cx cy = g.cell cx cy) : f = g := by
  apply Vector.ext
  intro r hr
  apply Vector.ext
  intro c hc
  exact h ⟨c, hc⟩ ⟨r, hr⟩

@[simp] theorem Framebuffer.cell_clear (cx : Fin 64) (cy : Fin 32) : Framebuffer.clear.cell cx cy = false := by
  simp [Framebuffer.cell, Framebuffer.clear]

/-! ### A list of source bits -/

/-- One source bit of a sprite: the cell it meets and its value. -/
structure Plot where
  cx  : Fin 64
  cy  : Fin 32
  src : Bool

/-- Source bits drawn one after another. -/
def plotAll (c : Canvas) (ps : List Plot) : Canvas := ps.foldl (fun c p => drawBit c p.cx p.cy p.src) c

/-- Two source bits meet different cells. -/
def Plot.Apart (p q : Plot) : Prop := ¬ (p.cx = q.cx ∧ p.cy = q.cy)

/-- The value of the source bits that meet a cell. -/
def plotBit (ps : List Plot) (cx : Fin 64) (cy : Fin 32) : Bool :=
  ps.any (fun p => decide (p.cx = cx) && decide (p.cy = cy) && p.src)

/-- Cells that no source bit meets are met by nothing. -/
theorem plotBit_eq_false {p : Plot} {ps : List Plot} (h : ∀ q ∈ ps, p.Apart q) : plotBit ps p.cx p.cy = false := by
  rw [plotBit, List.any_eq_false]
  intro q hq hc
  simp only [Bool.and_eq_true, decide_eq_true_eq] at hc
  exact h q hq ⟨hc.1.1.symm, hc.1.2.symm⟩

/-- When no cell is met twice, each cell is XORed once with the bit that meets it. -/
theorem cell_plotAll {ps : List Plot} (h : ps.Pairwise Plot.Apart) (c : Canvas) (cx : Fin 64) (cy : Fin 32) :
    (plotAll c ps).fb.cell cx cy = (c.fb.cell cx cy ^^ plotBit ps cx cy) := by
  induction ps generalizing c with
  | nil => simp [plotAll, plotBit]
  | cons p ps ih =>
    obtain ⟨hp, hps⟩ := List.pairwise_cons.mp h
    have step : plotAll c (p :: ps) = plotAll (drawBit c p.cx p.cy p.src) ps := rfl
    rw [step, ih hps]
    simp only [drawBit, Framebuffer.cell_setCell]
    by_cases e : cx = p.cx ∧ cy = p.cy
    · obtain ⟨rfl, rfl⟩ := e
      simp [plotBit]
      have := plotBit_eq_false hp
      simp only [plotBit, List.any_eq_false, Bool.and_eq_true, decide_eq_true_eq] at this
      cases p.src <;> simp_all
    · have e' : (decide (p.cx = cx) && decide (p.cy = cy) && p.src) = false := by
        rw [Bool.and_eq_false_iff, Bool.and_eq_false_iff, decide_eq_false_iff_not, decide_eq_false_iff_not]
        by_contra hc
        simp only [not_or, not_not] at hc
        exact e ⟨hc.1.1.symm, hc.1.2.symm⟩
      rw [if_neg e]
      simp only [plotBit, List.any_cons, e', Bool.false_or]

/-- When no cell is met twice, the collision output compares with the cells before the call. -/
theorem collision_plotAll {ps : List Plot} (h : ps.Pairwise Plot.Apart) (c : Canvas) :
    (plotAll c ps).collision = (c.collision || ps.any (fun p => p.src && c.fb.cell p.cx p.cy)) := by
  induction ps generalizing c with
  | nil => simp [plotAll]
  | cons p ps ih =>
    obtain ⟨hp, hps⟩ := List.pairwise_cons.mp h
    have step : plotAll c (p :: ps) = plotAll (drawBit c p.cx p.cy p.src) ps := rfl
    rw [step, ih hps, List.any_cons, ← Bool.or_assoc]
    congr 1
    have hany : ∀ qs : List Plot, (∀ q ∈ qs, p.Apart q) →
        qs.any (fun q => q.src && (drawBit c p.cx p.cy p.src).fb.cell q.cx q.cy) =
          qs.any (fun q => q.src && c.fb.cell q.cx q.cy) := by
      intro qs
      induction qs with
      | nil => intro _; rfl
      | cons q qs ihq =>
        intro hq
        have hn : ¬ (q.cx = p.cx ∧ q.cy = p.cy) := fun e => hq q (by simp) ⟨e.1.symm, e.2.symm⟩
        rw [List.any_cons, List.any_cons, ihq (fun r hr => hq r (by simp [hr]))]
        simp only [drawBit, Framebuffer.cell_setCell, hn, ↓reduceIte]
    exact hany ps hp

/-! ### A sprite as source bits -/

/-- The source bits of the sprite rows from row `r` on. -/
def spritePlots (x y : Nat) (r : Nat) : List Byte → List Plot
  | [] => []
  | row :: rows =>
    (List.range 8).map (fun j => ⟨spriteColumn x j, spriteRow y r, row.getLsbD (7 - j)⟩) ++
      spritePlots x y (r + 1) rows

theorem drawRows_eq_plotAll (x y r : Nat) (c : Canvas) (rows : List Byte) :
    drawRows x y r c rows = plotAll c (spritePlots x y r rows) := by
  induction rows generalizing r c with
  | nil => rfl
  | cons row rows ih =>
    simp only [drawRows, ih, spritePlots, plotAll, List.foldl_append, List.foldl_map, drawRow]

theorem mem_spritePlots {x y r : Nat} {rows : List Byte} {p : Plot} :
    p ∈ spritePlots x y r rows ↔ ∃ k j, k < rows.length ∧ j < 8 ∧
      p = ⟨spriteColumn x j, spriteRow y (r + k), (rows.getD k 0).getLsbD (7 - j)⟩ := by
  induction rows generalizing r with
  | nil => simp [spritePlots]
  | cons row rows ih =>
    simp only [spritePlots, List.mem_append, List.mem_map, List.mem_range, ih, List.length_cons]
    constructor
    · rintro (⟨j, hj, rfl⟩ | ⟨k, j, hk, hj, rfl⟩)
      · exact ⟨0, j, by omega, hj, rfl⟩
      · exact ⟨k + 1, j, by omega, hj, by rw [List.getD_cons_succ, show r + (k + 1) = r + 1 + k by omega]⟩
    · rintro ⟨k, j, hk, hj, rfl⟩
      cases k with
      | zero => exact .inl ⟨j, hj, rfl⟩
      | succ k =>
        exact .inr ⟨k, j, by omega, hj, by rw [List.getD_cons_succ, show r + (k + 1) = r + 1 + k by omega]⟩

theorem spriteColumn_val (x j : Nat) : (spriteColumn x j).val = (x + j) % 64 := rfl

theorem spriteRow_val (y r : Nat) : (spriteRow y r).val = (y + r) % 32 := rfl

/-- No cell is met twice by a sprite of at most 32 rows. -/
theorem spritePlots_apart {x y r : Nat} {rows : List Byte} (h : r + rows.length ≤ r + 32) :
    (spritePlots x y r rows).Pairwise Plot.Apart := by
  induction rows generalizing r with
  | nil => simp [spritePlots]
  | cons row rows ih =>
    simp only [List.length_cons] at h
    rw [spritePlots, List.pairwise_append]
    refine ⟨?_, ih (by omega), ?_⟩
    · rw [List.pairwise_map]
      refine List.Pairwise.imp_of_mem ?_ List.pairwise_lt_range
      intro a b ha hb hab hc
      have h8 := List.mem_range.mp ha
      have h8' := List.mem_range.mp hb
      have := congrArg Fin.val hc.1
      simp only [spriteColumn_val] at this
      omega
    · intro p hp q hq hc
      obtain ⟨j, hj, rfl⟩ := List.mem_map.mp hp
      obtain ⟨k, j', hk, hj', rfl⟩ := mem_spritePlots.mp hq
      have := congrArg Fin.val hc.2
      simp only [spriteRow_val] at this
      omega

/-- The source bit of a sprite that meets a cell, if one does. -/
def spriteBit (x y : Nat) (rows : List Byte) (cx : Fin 64) (cy : Fin 32) : Bool :=
  plotBit (spritePlots x y 0 rows) cx cy

theorem spriteBit_eq_true {x y : Nat} {rows : List Byte} {cx : Fin 64} {cy : Fin 32} :
    spriteBit x y rows cx cy = true ↔ ∃ r j, r < rows.length ∧ j < 8 ∧ cx.val = (x + j) % 64 ∧
      cy.val = (y + r) % 32 ∧ (rows.getD r 0).getLsbD (7 - j) = true := by
  simp only [spriteBit, plotBit, List.any_eq_true, Bool.and_eq_true, decide_eq_true_eq]
  constructor
  · rintro ⟨p, hp, ⟨rfl, rfl⟩, hs⟩
    obtain ⟨k, j, hk, hj, rfl⟩ := mem_spritePlots.mp hp
    exact ⟨k, j, hk, hj, rfl, by simp [spriteRow_val], hs⟩
  · rintro ⟨r, j, hr, hj, hx, hy, hs⟩
    refine ⟨⟨spriteColumn x j, spriteRow y (0 + r), (rows.getD r 0).getLsbD (7 - j)⟩,
      mem_spritePlots.mpr ⟨r, j, hr, hj, rfl⟩, ⟨Fin.ext hx.symm, Fin.ext ?_⟩, hs⟩
    rw [spriteRow_val, hy, Nat.zero_add]

/-- Every cell after a sprite of at most 32 rows: XORed with the source bit that meets it. -/
theorem cell_drawSprite {x y : Nat} {rows : List Byte} (h : rows.length ≤ 32) (fb : Framebuffer) (cx : Fin 64)
    (cy : Fin 32) : (drawSprite x y rows fb).fb.cell cx cy = (fb.cell cx cy ^^ spriteBit x y rows cx cy) := by
  rw [drawSprite, drawRows_eq_plotAll, cell_plotAll (spritePlots_apart (by omega))]
  rfl

/-- The collision output of a sprite of at most 32 rows: some cell set before the call is met by a 1 bit. -/
theorem collision_drawSprite {x y : Nat} {rows : List Byte} (h : rows.length ≤ 32) (fb : Framebuffer) :
    (drawSprite x y rows fb).collision = true ↔ ∃ cx cy, fb.cell cx cy = true ∧ spriteBit x y rows cx cy = true := by
  rw [drawSprite, drawRows_eq_plotAll, collision_plotAll (spritePlots_apart (by omega))]
  simp only [Bool.false_or, List.any_eq_true, Bool.and_eq_true, spriteBit, plotBit, decide_eq_true_eq]
  constructor
  · rintro ⟨p, hp, hs, hc⟩
    exact ⟨p.cx, p.cy, hc, p, hp, ⟨rfl, rfl⟩, hs⟩
  · rintro ⟨cx, cy, hc, p, hp, ⟨rfl, rfl⟩, hs⟩
    exact ⟨p, hp, hs, hc⟩

/-- Everything a `draw` can answer. -/
theorem execDraw_cases (x y : Reg) (n : RowCount) (s : State) :
    (s.i.toNat + n.val ≤ 4096 ∧ execDraw x y n s =
      .next (((s.setFb (drawSprite (s.getV x).toNat (s.getV y).toNat (s.mem.readBytes s.i.toNat n.val) s.fb).fb).setV vf
        (flagByte (drawSprite (s.getV x).toNat (s.getV y).toNat (s.mem.readBytes s.i.toNat n.val) s.fb).collision)).setDirty
        true)) ∨
    (4096 < s.i.toNat + n.val ∧ execDraw x y n s = .fault (.outOfBounds s)) := by
  by_cases h : s.i.toNat + n.val ≤ 4096
  · refine .inl ⟨h, ?_⟩
    have e : memRead s.mem (dataAddress s) n.val = some (s.mem.readBytes s.i.toNat n.val) :=
      memRead_eq_some.mpr ⟨h, rfl⟩
    simp only [execDraw, e]
  · refine .inr ⟨by omega, ?_⟩
    have e : memRead s.mem (dataAddress s) n.val = none := memRead_eq_none.mpr (by simp only [dataAddress]; omega)
    simp only [execDraw, e, raise]

end Sys2Proof.Machine
end

