-- ==== Sys2Proof/Laws/Operands.lean ====
section
/-!
SUPPORT. What the operand forms, the flag computations and the block transfers give.
-/
namespace Sys2Proof.Machine

@[simp] theorem addressOperand_toNat (nnn : Address) : (addressOperand nnn).toNat = nnn.toNat := by
  have := nnn.isLt
  simp only [addressOperand, BitVec.toNat_setWidth]
  omega

@[simp] theorem widen_toNat (b : Byte) : (widen b).toNat = b.toNat := by
  have := b.isLt
  simp only [widen, BitVec.toNat_setWidth]
  omega

theorem length_decimalDigits (b : Byte) : (decimalDigits b).length = 3 := rfl

@[simp] theorem length_registersUpTo (s : State) (x : Reg) : (registersUpTo s x).length = x.val + 1 := by
  simp only [registersUpTo, List.length_take, Vector.length_toList]
  omega

/-- Byte k of the block of registers. -/
theorem getD_registersUpTo (s : State) (x k : Reg) (h : k ≤ x) (d : Byte) :
    (registersUpTo s x).getD k.val d = s.getV k := by
  have h1 : k.val < x.val + 1 := Nat.lt_succ_of_le h
  simp [registersUpTo, List.getD_eq_getElem?_getD, h1, State.getV]

/-- Register k after a block of bytes is loaded. -/
theorem getElem_loadRegisters (v : Vector Byte 16) (bytes : List Byte) (k : Reg) :
    (loadRegisters v bytes)[k] = bytes.getD k.val v[k] := by
  simp [loadRegisters]

/-- No key down. -/
theorem lowestKey_eq_none {key : Vector Bool 16} : lowestKey key = none ↔ ∀ k : Fin 16, key[k] = false := by
  simp only [lowestKey, List.find?_eq_none, List.mem_finRange, true_imp_iff, Bool.not_eq_true]

/-- The lowest key down is down, and no lower one is. -/
theorem lowestKey_eq_some {key : Vector Bool 16} {k : Fin 16} :
    lowestKey key = some k ↔ key[k] = true ∧ ∀ j : Fin 16, j < k → key[j] = false := by
  rw [lowestKey, List.find?_eq_some_iff_getElem]
  constructor
  · rintro ⟨hk, i, hi, rfl, hlow⟩
    refine ⟨by simpa using hk, fun j hj => ?_⟩
    have := hlow j.val (by simpa [Fin.lt_def] using hj)
    simpa using this
  · rintro ⟨hk, hlow⟩
    refine ⟨by simpa using hk, k.val, by simp, by simp, fun j hj => ?_⟩
    have := hlow ⟨j, by omega⟩ hj
    simpa using this

@[simp] theorem keyByte_toNat (k : Fin 16) : (keyByte k).toNat = k.val := by
  simp only [keyByte, BitVec.toNat_ofNat]
  omega

/-! ### Flags -/

theorem flagByte_eq_one {c : Bool} : flagByte c = 1 ↔ c = true := by cases c <;> decide

theorem flagByte_toNat (c : Bool) : (flagByte c).toNat = if c then 1 else 0 := by cases c <;> decide

theorem carryFlag_toNat (a b : Byte) : (carryFlag a b).toNat = if a.toNat + b.toNat > 255 then 1 else 0 := by
  simp [carryFlag, flagByte_toNat]

theorem greaterFlag_toNat (a b : Byte) : (greaterFlag a b).toNat = if a.toNat > b.toNat then 1 else 0 := by
  simp [greaterFlag, flagByte_toNat]

theorem lowBitFlag_toNat (a : Byte) : (lowBitFlag a).toNat = a.toNat % 2 := by
  revert a
  decide

theorem highBitFlag_toNat (a : Byte) : (highBitFlag a).toNat = if a.toNat ≥ 128 then 1 else 0 := by
  revert a
  decide

/-- Registers after the two writes of a flag-writing operation (42_alu.md R146). -/
theorem getV_flagThenResult (flag : Byte) (x k : Reg) (result : State → Byte) (s : State) :
    (flagThenResult flag x result s).getV k =
      if k = x then result (s.setV vf flag) else if k = vf then flag else s.getV k := by
  simp only [flagThenResult, State.getV_setV]

/-! ### Block transfers and key skips -/

/-- Everything a block store can answer. -/
theorem storeBlock_cases (bytes : List Byte) (s : State) :
    (s.i.toNat + bytes.length ≤ 4096 ∧ storeBlock bytes s = .next (s.setMem (s.mem.writeBytes s.i.toNat bytes))) ∨
    (4096 < s.i.toNat + bytes.length ∧ storeBlock bytes s = .fault (.outOfBounds s)) := by
  by_cases h : s.i.toNat + bytes.length ≤ 4096
  · refine .inl ⟨h, ?_⟩
    have e : memWrite s.mem (dataAddress s) bytes = some (s.mem.writeBytes s.i.toNat bytes) :=
      memWrite_eq_some.mpr ⟨h, rfl⟩
    simp only [storeBlock, e]
  · refine .inr ⟨by omega, ?_⟩
    have e : memWrite s.mem (dataAddress s) bytes = none := memWrite_eq_none.mpr (by simp only [dataAddress]; omega)
    simp only [storeBlock, e, raise]

/-- Everything a block load can answer. -/
theorem execLoadRegs_cases (x : Reg) (s : State) :
    (s.i.toNat + (x.val + 1) ≤ 4096 ∧
      execLoadRegs x s = .next (s.setRegisters (loadRegisters s.v (s.mem.readBytes s.i.toNat (x.val + 1))))) ∨
    (4096 < s.i.toNat + (x.val + 1) ∧ execLoadRegs x s = .fault (.outOfBounds s)) := by
  by_cases h : s.i.toNat + (x.val + 1) ≤ 4096
  · refine .inl ⟨h, ?_⟩
    have e : memRead s.mem (dataAddress s) (x.val + 1) = some (s.mem.readBytes s.i.toNat (x.val + 1)) :=
      memRead_eq_some.mpr ⟨h, rfl⟩
    simp only [execLoadRegs, e]
  · refine .inr ⟨by omega, ?_⟩
    have e : memRead s.mem (dataAddress s) (x.val + 1) = none :=
      memRead_eq_none.mpr (by simp only [dataAddress]; omega)
    simp only [execLoadRegs, e, raise]

/-- Register k after a block load. -/
theorem getV_loadRegisters (s : State) (a n : Nat) (k : Reg) :
    (s.setRegisters (loadRegisters s.v (s.mem.readBytes a n))).getV k =
      if k.val < n then s.mem.readByte (a + k.val) else s.getV k := by
  rw [State.getV_setRegisters, getElem_loadRegisters, Memory.getD_readBytes]
  rfl

/-- Everything `wait-for-key` can answer. -/
theorem execWaitForKey_cases (x : Reg) (s : State) :
    ((∀ k : Fin 16, s.key[k] = false) ∧ execWaitForKey x s = .next (s.setPc (s.pc - 2))) ∨
    (∃ k : Fin 16, s.key[k] = true ∧ (∀ j : Fin 16, j < k → s.key[j] = false) ∧
      execWaitForKey x s = .next (s.setV x (keyByte k))) := by
  cases h : lowestKey s.key with
  | none => exact .inl ⟨lowestKey_eq_none.mp h, by simp only [execWaitForKey, h]⟩
  | some k => exact .inr ⟨k, (lowestKey_eq_some.mp h).1, (lowestKey_eq_some.mp h).2, by simp only [execWaitForKey, h]⟩

/-- Everything a key skip can answer. -/
theorem skipOnKey_cases (x : Reg) (c : Bool → Bool) (s : State) :
    (∃ h : (s.getV x).toNat < 16, skipOnKey x c s = .next (skipIf (c s.key[(s.getV x).toNat]) s)) ∨
    (16 ≤ (s.getV x).toNat ∧ skipOnKey x c s = .fault (.keyIndexOutOfRange s)) := by
  by_cases h : (s.getV x).toNat < 16
  · exact .inl ⟨h, by simp only [skipOnKey, h, ↓reduceDIte]⟩
  · exact .inr ⟨by omega, by simp only [skipOnKey, h, ↓reduceDIte, raise]⟩

end Sys2Proof.Machine
end

