-- ==== Sys2Proof/Laws/PerInstr.lean ====
section
/-!
SUPPORT. Per instruction: the row of the opcode table an instruction stands for selects the word its encoding gives
(30_encoding.md R83, R84).
-/
namespace Sys2Proof.Laws

/-- Position of an instruction's row in the opcode table (30_encoding.md R84). -/
def rowIndex : Instr → Nat
  | .clearDisplay => 0
  | .ret => 1
  | .jump _ => 2
  | .call _ => 3
  | .skipEqImm _ _ => 4
  | .skipNeImm _ _ => 5
  | .skipEqReg _ _ => 6
  | .loadImm _ _ => 7
  | .addImm _ _ => 8
  | .move _ _ => 9
  | .or _ _ => 10
  | .and _ _ => 11
  | .xor _ _ => 12
  | .add _ _ => 13
  | .sub _ _ => 14
  | .shiftRight _ _ => 15
  | .subn _ _ => 16
  | .shiftLeft _ _ => 17
  | .skipNeReg _ _ => 18
  | .loadIndex _ => 19
  | .jumpIndexed _ => 20
  | .random _ _ => 21
  | .draw _ _ _ => 22
  | .skipIfPressed _ => 23
  | .skipIfNotPressed _ => 24
  | .loadDt _ => 25
  | .waitForKey _ => 26
  | .setDt _ => 27
  | .setSt _ => 28
  | .addIndex _ => 29
  | .loadFontIndex _ => 30
  | .storeBcd _ => 31
  | .storeRegs _ => 32
  | .loadRegs _ => 33

/-! Masking a word nibble by nibble -/

theorem nibble_and_ones (c : BitVec 4) : c &&& 0xF = c := by revert c; decide

theorem byte_and_ones (kk : Byte) : kk &&& 0xFF = kk := by revert kk; decide

theorem encodeA_and (c : BitVec 4) (nnn : Address) : encodeA c nnn &&& 0xF000 = encodeA c 0 :=
  (BitVec.and_append (x₁ := c) (y₁ := nnn) (x₂ := 0xF) (y₂ := 0)).trans
    (congrArg₂ (fun (a : BitVec 4) (b : Address) => a ++ b) (nibble_and_ones c) BitVec.and_zero)

theorem encodeXK_and_class (c : BitVec 4) (x : Reg) (kk : Byte) : encodeXK c x kk &&& 0xF000 = encodeXK c 0 0 :=
  encodeA_and c (BitVec.ofFin (w := 4) x ++ kk)

theorem encodeXK_and_kk (c : BitVec 4) (x : Reg) (kk : Byte) : encodeXK c x kk &&& 0xF0FF = encodeXK c 0 kk :=
  (BitVec.and_append (x₁ := c) (y₁ := BitVec.ofFin (w := 4) x ++ kk) (x₂ := 0xF)
    (y₂ := (0 : BitVec 4) ++ (0xFF : Byte))).trans
    (congrArg₂ (fun (a : BitVec 4) (b : Address) => a ++ b) (nibble_and_ones c)
      (BitVec.and_append.trans
        (congrArg₂ (fun (a : BitVec 4) (b : Byte) => a ++ b) BitVec.and_zero (byte_and_ones kk))))

theorem encodeXYN_and_n (c : BitVec 4) (x y : Reg) (n : BitVec 4) :
    encodeXYN c x y n &&& 0xF00F = encodeXYN c 0 0 n :=
  (BitVec.and_append (x₁ := c) (y₁ := BitVec.ofFin (w := 4) x ++ (BitVec.ofFin (w := 4) y ++ n)) (x₂ := 0xF)
    (y₂ := (0 : BitVec 4) ++ ((0 : BitVec 4) ++ (0xF : BitVec 4)))).trans
    (congrArg₂ (fun (a : BitVec 4) (b : Address) => a ++ b) (nibble_and_ones c)
      (BitVec.and_append.trans
        (congrArg₂ (fun (a : BitVec 4) (b : Byte) => a ++ b) BitVec.and_zero
          (BitVec.and_append.trans
            (congrArg₂ (fun (a : BitVec 4) (b : BitVec 4) => a ++ b) BitVec.and_zero (nibble_and_ones n))))))

theorem encodeXYN_and_class (c : BitVec 4) (x y : Reg) (n : BitVec 4) :
    encodeXYN c x y n &&& 0xF000 = encodeXYN c 0 0 0 :=
  encodeA_and c (BitVec.ofFin (w := 4) x ++ (BitVec.ofFin (w := 4) y ++ n))

/-- The row of the instruction bears its mnemonic and selects its word. -/
def RowMatch.Statement (i : Instr) : Prop :=
  ∃ r ∈ opcodeTable[rowIndex i]?, r.mnemonic = i.mnemonic ∧ r.selects (encodeWord i) = true

theorem RowMatch.clearDisplay : RowMatch.Statement (.clearDisplay) :=
  ⟨⟨"clear-display", 0x00E0, 0xFFFF⟩, rfl, rfl, beq_iff_eq.mpr (rfl)⟩

theorem RowMatch.ret : RowMatch.Statement (.ret) :=
  ⟨⟨"return", 0x00EE, 0xFFFF⟩, rfl, rfl, beq_iff_eq.mpr (rfl)⟩

theorem RowMatch.jump (nnn : Address) : RowMatch.Statement (.jump nnn) :=
  ⟨⟨"jump", 0x1000, 0xF000⟩, rfl, rfl, beq_iff_eq.mpr (encodeA_and _ _)⟩

theorem RowMatch.call (nnn : Address) : RowMatch.Statement (.call nnn) :=
  ⟨⟨"call", 0x2000, 0xF000⟩, rfl, rfl, beq_iff_eq.mpr (encodeA_and _ _)⟩

theorem RowMatch.skipEqImm (x : Reg) (kk : Byte) : RowMatch.Statement (.skipEqImm x kk) :=
  ⟨⟨"skip-eq-imm", 0x3000, 0xF000⟩, rfl, rfl, beq_iff_eq.mpr (encodeXK_and_class _ _ _)⟩

theorem RowMatch.skipNeImm (x : Reg) (kk : Byte) : RowMatch.Statement (.skipNeImm x kk) :=
  ⟨⟨"skip-ne-imm", 0x4000, 0xF000⟩, rfl, rfl, beq_iff_eq.mpr (encodeXK_and_class _ _ _)⟩

theorem RowMatch.skipEqReg (x y : Reg) : RowMatch.Statement (.skipEqReg x y) :=
  ⟨⟨"skip-eq-reg", 0x5000, 0xF00F⟩, rfl, rfl, beq_iff_eq.mpr (encodeXYN_and_n _ _ _ _)⟩

theorem RowMatch.loadImm (x : Reg) (kk : Byte) : RowMatch.Statement (.loadImm x kk) :=
  ⟨⟨"load-imm", 0x6000, 0xF000⟩, rfl, rfl, beq_iff_eq.mpr (encodeXK_and_class _ _ _)⟩

theorem RowMatch.addImm (x : Reg) (kk : Byte) : RowMatch.Statement (.addImm x kk) :=
  ⟨⟨"add-imm", 0x7000, 0xF000⟩, rfl, rfl, beq_iff_eq.mpr (encodeXK_and_class _ _ _)⟩

theorem RowMatch.move (x y : Reg) : RowMatch.Statement (.move x y) :=
  ⟨⟨"move", 0x8000, 0xF00F⟩, rfl, rfl, beq_iff_eq.mpr (encodeXYN_and_n _ _ _ _)⟩

theorem RowMatch.or (x y : Reg) : RowMatch.Statement (.or x y) :=
  ⟨⟨"or", 0x8001, 0xF00F⟩, rfl, rfl, beq_iff_eq.mpr (encodeXYN_and_n _ _ _ _)⟩

theorem RowMatch.and (x y : Reg) : RowMatch.Statement (.and x y) :=
  ⟨⟨"and", 0x8002, 0xF00F⟩, rfl, rfl, beq_iff_eq.mpr (encodeXYN_and_n _ _ _ _)⟩

theorem RowMatch.xor (x y : Reg) : RowMatch.Statement (.xor x y) :=
  ⟨⟨"xor", 0x8003, 0xF00F⟩, rfl, rfl, beq_iff_eq.mpr (encodeXYN_and_n _ _ _ _)⟩

theorem RowMatch.add (x y : Reg) : RowMatch.Statement (.add x y) :=
  ⟨⟨"add", 0x8004, 0xF00F⟩, rfl, rfl, beq_iff_eq.mpr (encodeXYN_and_n _ _ _ _)⟩

theorem RowMatch.sub (x y : Reg) : RowMatch.Statement (.sub x y) :=
  ⟨⟨"sub", 0x8005, 0xF00F⟩, rfl, rfl, beq_iff_eq.mpr (encodeXYN_and_n _ _ _ _)⟩

theorem RowMatch.shiftRight (x y : Reg) : RowMatch.Statement (.shiftRight x y) :=
  ⟨⟨"shift-right", 0x8006, 0xF00F⟩, rfl, rfl, beq_iff_eq.mpr (encodeXYN_and_n _ _ _ _)⟩

theorem RowMatch.subn (x y : Reg) : RowMatch.Statement (.subn x y) :=
  ⟨⟨"subn", 0x8007, 0xF00F⟩, rfl, rfl, beq_iff_eq.mpr (encodeXYN_and_n _ _ _ _)⟩

theorem RowMatch.shiftLeft (x y : Reg) : RowMatch.Statement (.shiftLeft x y) :=
  ⟨⟨"shift-left", 0x800E, 0xF00F⟩, rfl, rfl, beq_iff_eq.mpr (encodeXYN_and_n _ _ _ _)⟩

theorem RowMatch.skipNeReg (x y : Reg) : RowMatch.Statement (.skipNeReg x y) :=
  ⟨⟨"skip-ne-reg", 0x9000, 0xF00F⟩, rfl, rfl, beq_iff_eq.mpr (encodeXYN_and_n _ _ _ _)⟩

theorem RowMatch.loadIndex (nnn : Address) : RowMatch.Statement (.loadIndex nnn) :=
  ⟨⟨"load-index", 0xA000, 0xF000⟩, rfl, rfl, beq_iff_eq.mpr (encodeA_and _ _)⟩

theorem RowMatch.jumpIndexed (nnn : Address) : RowMatch.Statement (.jumpIndexed nnn) :=
  ⟨⟨"jump-indexed", 0xB000, 0xF000⟩, rfl, rfl, beq_iff_eq.mpr (encodeA_and _ _)⟩

theorem RowMatch.random (x : Reg) (kk : Byte) : RowMatch.Statement (.random x kk) :=
  ⟨⟨"random", 0xC000, 0xF000⟩, rfl, rfl, beq_iff_eq.mpr (encodeXK_and_class _ _ _)⟩

theorem RowMatch.draw (x y : Reg) (n : RowCount) : RowMatch.Statement (.draw x y n) :=
  ⟨⟨"draw", 0xD000, 0xF000⟩, rfl, rfl, beq_iff_eq.mpr (encodeXYN_and_class _ _ _ _)⟩

theorem RowMatch.skipIfPressed (x : Reg) : RowMatch.Statement (.skipIfPressed x) :=
  ⟨⟨"skip-if-pressed", 0xE09E, 0xF0FF⟩, rfl, rfl, beq_iff_eq.mpr (encodeXK_and_kk _ _ _)⟩

theorem RowMatch.skipIfNotPressed (x : Reg) : RowMatch.Statement (.skipIfNotPressed x) :=
  ⟨⟨"skip-if-not-pressed", 0xE0A1, 0xF0FF⟩, rfl, rfl, beq_iff_eq.mpr (encodeXK_and_kk _ _ _)⟩

theorem RowMatch.loadDt (x : Reg) : RowMatch.Statement (.loadDt x) :=
  ⟨⟨"load-dt", 0xF007, 0xF0FF⟩, rfl, rfl, beq_iff_eq.mpr (encodeXK_and_kk _ _ _)⟩

theorem RowMatch.waitForKey (x : Reg) : RowMatch.Statement (.waitForKey x) :=
  ⟨⟨"wait-for-key", 0xF00A, 0xF0FF⟩, rfl, rfl, beq_iff_eq.mpr (encodeXK_and_kk _ _ _)⟩

theorem RowMatch.setDt (x : Reg) : RowMatch.Statement (.setDt x) :=
  ⟨⟨"set-dt", 0xF015, 0xF0FF⟩, rfl, rfl, beq_iff_eq.mpr (encodeXK_and_kk _ _ _)⟩

theorem RowMatch.setSt (x : Reg) : RowMatch.Statement (.setSt x) :=
  ⟨⟨"set-st", 0xF018, 0xF0FF⟩, rfl, rfl, beq_iff_eq.mpr (encodeXK_and_kk _ _ _)⟩

theorem RowMatch.addIndex (x : Reg) : RowMatch.Statement (.addIndex x) :=
  ⟨⟨"add-index", 0xF01E, 0xF0FF⟩, rfl, rfl, beq_iff_eq.mpr (encodeXK_and_kk _ _ _)⟩

theorem RowMatch.loadFontIndex (x : Reg) : RowMatch.Statement (.loadFontIndex x) :=
  ⟨⟨"load-font-index", 0xF029, 0xF0FF⟩, rfl, rfl, beq_iff_eq.mpr (encodeXK_and_kk _ _ _)⟩

theorem RowMatch.storeBcd (x : Reg) : RowMatch.Statement (.storeBcd x) :=
  ⟨⟨"store-bcd", 0xF033, 0xF0FF⟩, rfl, rfl, beq_iff_eq.mpr (encodeXK_and_kk _ _ _)⟩

theorem RowMatch.storeRegs (x : Reg) : RowMatch.Statement (.storeRegs x) :=
  ⟨⟨"store-regs", 0xF055, 0xF0FF⟩, rfl, rfl, beq_iff_eq.mpr (encodeXK_and_kk _ _ _)⟩

theorem RowMatch.loadRegs (x : Reg) : RowMatch.Statement (.loadRegs x) :=
  ⟨⟨"load-regs", 0xF065, 0xF0FF⟩, rfl, rfl, beq_iff_eq.mpr (encodeXK_and_kk _ _ _)⟩

end Sys2Proof.Laws
end

