-- ==== Sys2Proof/Laws/Step.lean ====
section
/-!
SUPPORT. What one step can do, said once: it answers a next state, a fault of one of the phases, and never a refusal of its
own.
-/
namespace Sys2Proof.Machine

/-! ### The sampled inputs -/

@[simp] theorem sampleInputs_v (n : Nat) (r : Byte) (s : State) : (sampleInputs n r s).v = s.v := rfl
@[simp] theorem sampleInputs_getV (n : Nat) (r : Byte) (s : State) (x : Reg) : (sampleInputs n r s).getV x = s.getV x := rfl
@[simp] theorem sampleInputs_i (n : Nat) (r : Byte) (s : State) : (sampleInputs n r s).i = s.i := rfl
@[simp] theorem sampleInputs_pc (n : Nat) (r : Byte) (s : State) : (sampleInputs n r s).pc = s.pc := rfl
@[simp] theorem sampleInputs_sp (n : Nat) (r : Byte) (s : State) : (sampleInputs n r s).sp = s.sp := rfl
@[simp] theorem sampleInputs_stk (n : Nat) (r : Byte) (s : State) : (sampleInputs n r s).stk = s.stk := rfl
@[simp] theorem sampleInputs_dt (n : Nat) (r : Byte) (s : State) : (sampleInputs n r s).dt = s.dt := rfl
@[simp] theorem sampleInputs_st (n : Nat) (r : Byte) (s : State) : (sampleInputs n r s).st = s.st := rfl
@[simp] theorem sampleInputs_tref (n : Nat) (r : Byte) (s : State) : (sampleInputs n r s).tref = s.tref := rfl
@[simp] theorem sampleInputs_key (n : Nat) (r : Byte) (s : State) : (sampleInputs n r s).key = s.key := rfl
@[simp] theorem sampleInputs_fb (n : Nat) (r : Byte) (s : State) : (sampleInputs n r s).fb = s.fb := rfl
@[simp] theorem sampleInputs_dirty (n : Nat) (r : Byte) (s : State) : (sampleInputs n r s).dirty = s.dirty := rfl
@[simp] theorem sampleInputs_ir (n : Nat) (r : Byte) (s : State) : (sampleInputs n r s).ir = s.ir := rfl
@[simp] theorem sampleInputs_mem (n : Nat) (r : Byte) (s : State) : (sampleInputs n r s).mem = s.mem := rfl
@[simp] theorem sampleInputs_now (n : Nat) (r : Byte) (s : State) : (sampleInputs n r s).now = n := rfl
@[simp] theorem sampleInputs_rand (n : Nat) (r : Byte) (s : State) : (sampleInputs n r s).rand = r := rfl
@[simp] theorem sampleInputs_warn (n : Nat) (r : Byte) (s : State) : (sampleInputs n r s).warn = false := rfl
@[simp] theorem sampleInputs_stepNo (n : Nat) (r : Byte) (s : State) : (sampleInputs n r s).stepNo = s.stepNo := rfl

/-! ### The state after the fetch -/

section AfterFetch
variable (now : Nat) (rand : Byte) (s : State)

@[simp] theorem afterFetch_v : (afterFetch now rand s).v = s.v := by simp [afterFetch]
@[simp] theorem afterFetch_i : (afterFetch now rand s).i = s.i := by simp [afterFetch]
@[simp] theorem afterFetch_pc : (afterFetch now rand s).pc = s.pc + 2 := by simp [afterFetch]
@[simp] theorem afterFetch_sp : (afterFetch now rand s).sp = s.sp := by simp [afterFetch]
@[simp] theorem afterFetch_stk : (afterFetch now rand s).stk = s.stk := by simp [afterFetch]
@[simp] theorem afterFetch_dt : (afterFetch now rand s).dt = (timerPhase (sampleInputs now rand s)).dt := by simp [afterFetch]
@[simp] theorem afterFetch_st : (afterFetch now rand s).st = (timerPhase (sampleInputs now rand s)).st := by simp [afterFetch]
@[simp] theorem afterFetch_tref : (afterFetch now rand s).tref = (timerPhase (sampleInputs now rand s)).tref := by simp [afterFetch]
@[simp] theorem afterFetch_key : (afterFetch now rand s).key = s.key := by simp [afterFetch]
@[simp] theorem afterFetch_fb : (afterFetch now rand s).fb = s.fb := by simp [afterFetch]
@[simp] theorem afterFetch_dirty : (afterFetch now rand s).dirty = s.dirty := by simp [afterFetch]
@[simp] theorem afterFetch_ir : (afterFetch now rand s).ir = wordAtPc s := by simp [afterFetch]
@[simp] theorem afterFetch_mem : (afterFetch now rand s).mem = s.mem := by simp [afterFetch]
@[simp] theorem afterFetch_now : (afterFetch now rand s).now = now := by simp [afterFetch]
@[simp] theorem afterFetch_rand : (afterFetch now rand s).rand = rand := by simp [afterFetch]
@[simp] theorem afterFetch_warn : (afterFetch now rand s).warn = false := by simp [afterFetch]
@[simp] theorem afterFetch_stepNo : (afterFetch now rand s).stepNo = s.stepNo := by simp [afterFetch]
@[simp] theorem afterFetch_getV (x : Reg) : (afterFetch now rand s).getV x = s.getV x := by simp [afterFetch]

/-- PC after the fetch as a number: no fetch that succeeds wraps it. -/
theorem afterFetch_pc_toNat (h : s.pc.toNat + 2 ≤ 4096) : (afterFetch now rand s).pc.toNat = s.pc.toNat + 2 := by
  rw [afterFetch_pc, BitVec.toNat_add]
  change (s.pc.toNat + 2) % 65536 = _
  omega

/-- The fetch of a step. -/
theorem fetch_timerPhase :
    fetch (timerPhase (sampleInputs now rand s)) =
      if s.pc.toNat + 2 ≤ 4096 then some (afterFetch now rand s) else none := by
  split
  · rename_i h
    rw [fetch_of_room (by simpa using h)]
    simp only [afterFetch, wordAtPc, timerPhase_mem, timerPhase_pc, sampleInputs_mem, sampleInputs_pc]
  · rename_i h
    exact fetch_beyond (by simp only [timerPhase_pc, sampleInputs_pc]; omega)

end AfterFetch

/-! ### One step (40_step_cycle.md R100) -/

/-- A step that answers a next state fetched, decoded and executed, and passed the post-check. -/
theorem stepWith_next {now : Nat} {rand : Byte} {s t : State} (h : stepWith now rand s = .next t) :
    s.pc.toNat + 2 ≤ 4096 ∧ ∃ i, decodeWord (wordAtPc s) = .ok i ∧ exec i (afterFetch now rand s) = .next t ∧
      t.pc.toNat < 4096 := by
  unfold stepWith at h
  rw [fetch_timerPhase] at h
  by_cases hp : s.pc.toNat + 2 ≤ 4096
  · rw [if_pos hp] at h
    simp only [executeWord, afterFetch_ir] at h
    cases hd : decodeWord (wordAtPc s) with
    | error e => simp [hd, raise] at h
    | ok i =>
      rw [hd] at h
      obtain ⟨he, hp'⟩ := postCheck_eq_next.mp h
      exact ⟨hp, i, rfl, he, hp'⟩
  · rw [if_neg hp] at h
    simp [raise] at h

/-- A step that answers a fault failed in the fetch, the decode, the execute phase or the post-check. -/
theorem stepWith_fault {now : Nat} {rand : Byte} {s : State} {f : Fault} (h : stepWith now rand s = .fault f) :
    (4096 < s.pc.toNat + 2 ∧ f = .outOfBounds (timerPhase (sampleInputs now rand s))) ∨
    (s.pc.toNat + 2 ≤ 4096 ∧
      ((∃ e, decodeWord (wordAtPc s) = .error e ∧ f = .invalidInstruction (afterFetch now rand s)) ∨
       ∃ i, decodeWord (wordAtPc s) = .ok i ∧ (exec i (afterFetch now rand s) = .fault f ∨
         ∃ t, exec i (afterFetch now rand s) = .next t ∧ 4096 ≤ t.pc.toNat ∧ f = .programCounterOutOfRange t))) := by
  unfold stepWith at h
  rw [fetch_timerPhase] at h
  by_cases hp : s.pc.toNat + 2 ≤ 4096
  · rw [if_pos hp] at h
    simp only [executeWord, afterFetch_ir] at h
    refine .inr ⟨hp, ?_⟩
    cases hd : decodeWord (wordAtPc s) with
    | error e =>
      rw [hd] at h
      simp only [raise, Host.Outcome.fault.injEq] at h
      exact .inl ⟨e, rfl, h.symm⟩
    | ok i =>
      rw [hd] at h
      exact .inr ⟨i, rfl, postCheck_eq_fault.mp h⟩
  · rw [if_neg hp] at h
    simp only [raise, Host.Outcome.fault.injEq] at h
    exact .inl ⟨Nat.lt_of_not_le hp, h.symm⟩

/-- Only `exec` could refuse. -/
theorem stepWith_refused {now : Nat} {rand : Byte} {s : State} {r : Refusal} (h : stepWith now rand s = .refused r) :
    ∃ u i, exec i u = .refused r := by
  unfold stepWith at h
  rw [fetch_timerPhase] at h
  by_cases hp : s.pc.toNat + 2 ≤ 4096
  · rw [if_pos hp] at h
    simp only [executeWord, afterFetch_ir] at h
    cases hd : decodeWord (wordAtPc s) with
    | error e => simp [hd, raise] at h
    | ok i =>
      rw [hd] at h
      exact ⟨_, i, postCheck_eq_refused.mp h⟩
  · rw [if_neg hp] at h
    simp [raise] at h

/-- The step with free inputs is the step with the inputs it draws. -/
theorem step_eq (s : State) : step s = stepWith (nextNow s) (nextRand s) (s.setStepNo (s.stepNo + 1)) := rfl

/-- `now` never decreases (46_host_interface.md R221). -/
theorem now_le_nextNow (s : State) : s.now ≤ nextNow s := Nat.le_add_right _ _

end Sys2Proof.Machine
end

