-- ==== Sys2Proof/Laws/Transactions.lean ====
section
/-!
SUPPORT. The state a reset leaves, as named updates of State.reset: the default RESERVED_IMAGE lists no byte of memory. What
a load can answer, and what key transactions come to.
-/
namespace Sys2Proof.Machine

/-- The default image writes what an unlisted address reads as (10_state.md R40, log 5). -/
theorem writeBytes_reservedImage :
    State.reset.mem.writeBytes 0 (Config.reservedImage.take Config.reservedSize) = [] := by
  change Memory.writeBytes [] 0 _ = []
  apply Memory.writeBytes_unlisted
  intro k _
  rw [Config.reservedImage, List.take_replicate, List.getD_eq_getElem?_getD, List.getElem?_replicate]
  split <;> rfl

/-- Everything a reset leaves (46_host_interface.md R230). -/
theorem resetMachine_eq (now : Nat) (s : State) :
    resetMachine now s = ((State.reset.setInputs now 0).setTref now).setStepNo s.stepNo := by
  rw [resetMachine, resetWith, writeBytes_reservedImage]
  rfl

/-- Everything a load can answer (R226). -/
theorem loadRom_cases (bytes : List Byte) (s : State) :
    (bytes.length ≤ 3584 ∧ loadRom bytes s = (none, s.setMem (s.mem.writeBytes 0x200 bytes))) ∨
    (3584 < bytes.length ∧ loadRom bytes s = (some .romTooLarge, s)) := by
  by_cases h : bytes.length > Config.romMax
  · exact .inr ⟨h, by rw [loadRom, if_pos h]⟩
  · exact .inl ⟨Nat.le_of_not_lt h, by rw [loadRom, if_neg h]⟩

/-- One key transaction changes the key latch and nothing else (R224, R225). -/
theorem transact_key {a : Transaction} (h : isKeyTransaction a = true) (s : State) :
    (transact a s).2 = s.setKeys (transact a s).2.key := by
  cases a with
  | setKey k => rfl
  | clearKey k => rfl
  | _ => simp [isKeyTransaction] at h

/-- Any number of key transactions change the key latch and nothing else. -/
theorem transactAll_keys {as : List Transaction} (h : as.all isKeyTransaction = true) (s : State) :
    transactAll as s = s.setKeys (transactAll as s).key := by
  induction as generalizing s with
  | nil => rfl
  | cons a as ih =>
    simp only [List.all_cons, Bool.and_eq_true] at h
    simp only [transactAll]
    rw [ih h.2 (transact a s).2, transact_key h.1 s]
    rfl

end Sys2Proof.Machine
end

