-- ==== Sys2Proof/Tests/Slice0.lean ====
section
/-!
SUPPORT. Tests whose expected results are the vectors of 95_test_vectors.md (its ids in the comments) and the encodings of
30_encoding.md; and for every statement with hypotheses a state and operands that meet them.
-/
namespace Sys2Proof.Tests

open Sys2Proof.Machine

/-- The outcome of one step from a state with one word placed at PC, no timer period elapsed, `rand` = 0xA7. -/
def run (w : Word) (s : State) : Host.Outcome State Fault Refusal := stepWith s.tref 0xA7 (placeWordAtPc s w)

/-- The state an outcome leaves, completed or not. -/
def left : Host.Outcome State Fault Refusal → State
  | .next s => s
  | .fault f => stateLeft f
  | .refused _ => State.reset

/-- Completed. -/
def ok : Host.Outcome State Fault Refusal → Bool
  | .next _ => true
  | _ => false

/-- The code of the error an outcome reports (60_exceptions.md R240); 0 for none. -/
def code (o : Host.Outcome State Fault Refusal) : Nat := (resultCode o).getD 0

/-- The state after reset with one register set. -/
def withV (x : Reg) (b : Byte) : State := State.reset.setV x b

/-- The state after reset with two registers set. -/
def withVV (x : Reg) (a : Byte) (y : Reg) (b : Byte) : State := (withV x a).setV y b

/-! ### Decoding: one word per constructor, written out from 30_encoding.md R82 and R84 -/

theorem test_decode_clearDisplay :
    decodeWord 0x00E0 = .ok .clearDisplay ∧ encodeWord .clearDisplay = 0x00E0 := by decide

theorem test_decode_ret :
    decodeWord 0x00EE = .ok .ret ∧ encodeWord .ret = 0x00EE := by decide

theorem test_decode_jump :
    decodeWord 0x1ABC = .ok (.jump 0xABC) ∧ encodeWord (.jump 0xABC) = 0x1ABC := by decide

theorem test_decode_call :
    decodeWord 0x2300 = .ok (.call 0x300) ∧ encodeWord (.call 0x300) = 0x2300 := by decide

theorem test_decode_skipEqImm :
    decodeWord 0x3A42 = .ok (.skipEqImm 0xA 0x42) ∧ encodeWord (.skipEqImm 0xA 0x42) = 0x3A42 := by decide

theorem test_decode_skipNeImm :
    decodeWord 0x4A42 = .ok (.skipNeImm 0xA 0x42) ∧ encodeWord (.skipNeImm 0xA 0x42) = 0x4A42 := by decide

theorem test_decode_skipEqReg :
    decodeWord 0x5120 = .ok (.skipEqReg 1 2) ∧ encodeWord (.skipEqReg 1 2) = 0x5120 := by decide

theorem test_decode_loadImm :
    decodeWord 0x6FAB = .ok (.loadImm 0xF 0xAB) ∧ encodeWord (.loadImm 0xF 0xAB) = 0x6FAB := by decide

theorem test_decode_addImm :
    decodeWord 0x7F02 = .ok (.addImm 0xF 0x02) ∧ encodeWord (.addImm 0xF 0x02) = 0x7F02 := by decide

theorem test_decode_move :
    decodeWord 0x8120 = .ok (.move 1 2) ∧ encodeWord (.move 1 2) = 0x8120 := by decide

theorem test_decode_or :
    decodeWord 0x8121 = .ok (.or 1 2) ∧ encodeWord (.or 1 2) = 0x8121 := by decide

theorem test_decode_and :
    decodeWord 0x8122 = .ok (.and 1 2) ∧ encodeWord (.and 1 2) = 0x8122 := by decide

theorem test_decode_xor :
    decodeWord 0x8123 = .ok (.xor 1 2) ∧ encodeWord (.xor 1 2) = 0x8123 := by decide

theorem test_decode_add :
    decodeWord 0x8F14 = .ok (.add 0xF 1) ∧ encodeWord (.add 0xF 1) = 0x8F14 := by decide

theorem test_decode_sub :
    decodeWord 0x8F15 = .ok (.sub 0xF 1) ∧ encodeWord (.sub 0xF 1) = 0x8F15 := by decide

theorem test_decode_shiftRight :
    decodeWord 0x82F6 = .ok (.shiftRight 2 0xF) ∧ encodeWord (.shiftRight 2 0xF) = 0x82F6 := by decide

theorem test_decode_subn :
    decodeWord 0x8F17 = .ok (.subn 0xF 1) ∧ encodeWord (.subn 0xF 1) = 0x8F17 := by decide

theorem test_decode_shiftLeft :
    decodeWord 0x830E = .ok (.shiftLeft 3 0) ∧ encodeWord (.shiftLeft 3 0) = 0x830E := by decide

theorem test_decode_skipNeReg :
    decodeWord 0x9120 = .ok (.skipNeReg 1 2) ∧ encodeWord (.skipNeReg 1 2) = 0x9120 := by decide

theorem test_decode_loadIndex :
    decodeWord 0xA123 = .ok (.loadIndex 0x123) ∧ encodeWord (.loadIndex 0x123) = 0xA123 := by decide

theorem test_decode_jumpIndexed :
    decodeWord 0xB300 = .ok (.jumpIndexed 0x300) ∧ encodeWord (.jumpIndexed 0x300) = 0xB300 := by decide

theorem test_decode_random :
    decodeWord 0xC30F = .ok (.random 3 0x0F) ∧ encodeWord (.random 3 0x0F) = 0xC30F := by decide

theorem test_decode_draw :
    decodeWord 0xD015 = .ok (.draw 0 1 5) ∧ encodeWord (.draw 0 1 5) = 0xD015 := by decide

theorem test_decode_skipIfPressed :
    decodeWord 0xE59E = .ok (.skipIfPressed 5) ∧ encodeWord (.skipIfPressed 5) = 0xE59E := by decide

theorem test_decode_skipIfNotPressed :
    decodeWord 0xE5A1 = .ok (.skipIfNotPressed 5) ∧ encodeWord (.skipIfNotPressed 5) = 0xE5A1 := by decide

theorem test_decode_loadDt :
    decodeWord 0xF107 = .ok (.loadDt 1) ∧ encodeWord (.loadDt 1) = 0xF107 := by decide

theorem test_decode_waitForKey :
    decodeWord 0xF30A = .ok (.waitForKey 3) ∧ encodeWord (.waitForKey 3) = 0xF30A := by decide

theorem test_decode_setDt :
    decodeWord 0xF015 = .ok (.setDt 0) ∧ encodeWord (.setDt 0) = 0xF015 := by decide

theorem test_decode_setSt :
    decodeWord 0xF218 = .ok (.setSt 2) ∧ encodeWord (.setSt 2) = 0xF218 := by decide

theorem test_decode_addIndex :
    decodeWord 0xF21E = .ok (.addIndex 2) ∧ encodeWord (.addIndex 2) = 0xF21E := by decide

theorem test_decode_loadFontIndex :
    decodeWord 0xF429 = .ok (.loadFontIndex 4) ∧ encodeWord (.loadFontIndex 4) = 0xF429 := by decide

theorem test_decode_storeBcd :
    decodeWord 0xF033 = .ok (.storeBcd 0) ∧ encodeWord (.storeBcd 0) = 0xF033 := by decide

theorem test_decode_storeRegs :
    decodeWord 0xF155 = .ok (.storeRegs 1) ∧ encodeWord (.storeRegs 1) = 0xF155 := by decide

theorem test_decode_loadRegs :
    decodeWord 0xF265 = .ok (.loadRegs 2) ∧ encodeWord (.loadRegs 2) = 0xF265 := by decide

/-- High byte first (20_memory.md R56); half an instruction is none. -/
theorem test_decode_bytes :
    decode [0xD0, 0x15, 0x00] = .ok (.draw 0 1 5, [0x00]) ∧ decode [0xD0] = .error .truncated := by decide

theorem test_decodeTableWord :
    decodeTableWord 16 0x8124 = some (.add 1 2) ∧ decodeTableWord 16 0xFFFF = none := by decide

/-! ### WellFormed: for each of the six checks of R85 a word it refuses (E2 to E8, S10) -/

theorem test_wellFormed_class0 :
    wellFormedWord 0x0000 = false ∧ wellFormedWord 0x00E1 = false ∧ wellFormedWord 0x01E0 = false ∧
    decodeWord 0x0000 = .error (.unrecognised 0x0000) ∧ decodeWord 0x00E1 = .error (.unrecognised 0x00E1) ∧ decodeWord 0x01E0 = .error (.unrecognised 0x01E0) := by decide

theorem test_wellFormed_class5 :
    wellFormedWord 0x5121 = false ∧
    decodeWord 0x5121 = .error (.unrecognised 0x5121) := by decide

theorem test_wellFormed_class8 :
    wellFormedWord 0x8008 = false ∧ wellFormedWord 0x800F = false ∧
    decodeWord 0x8008 = .error (.unrecognised 0x8008) ∧ decodeWord 0x800F = .error (.unrecognised 0x800F) := by decide

theorem test_wellFormed_class9 :
    wellFormedWord 0x9121 = false ∧
    decodeWord 0x9121 = .error (.unrecognised 0x9121) := by decide

theorem test_wellFormed_classE :
    wellFormedWord 0xE09F = false ∧
    decodeWord 0xE09F = .error (.unrecognised 0xE09F) := by decide

theorem test_wellFormed_classF :
    wellFormedWord 0xFFFF = false ∧ wellFormedWord 0xF0FF = false ∧
    decodeWord 0xFFFF = .error (.unrecognised 0xFFFF) ∧ decodeWord 0xF0FF = .error (.unrecognised 0xF0FF) := by decide

theorem test_wellFormed_accepts :
    wellFormedWord 0x00E0 = true ∧ wellFormedWord 0x5120 = true ∧ wellFormedWord 0x800E = true ∧ wellFormedWord 0xFF65 = true := by decide

/-! ### Steps (T-STEP, T-ERR) -/

/-- A38 through the step with free inputs. -/
theorem test_step_after_reset :
    ∃ t, step (State.reset.withFetchWord 16 0x6005) = .next t ∧ t.getV 0 = 5 ∧ t.pc = 0x202 := ⟨_, rfl, rfl, rfl⟩

/-- E11. -/
theorem test_step_odd_pc :
    (left (run 0x6005 (State.reset.setPc 4093))).getV 0 = 5 ∧ (left (run 0x6005 (State.reset.setPc 4093))).pc = 4095 := by decide

/-- E12. -/
theorem test_step_E12 :
    code (run 0x6005 (State.reset.setPc 4094)) = 4 ∧ (left (run 0x6005 (State.reset.setPc 4094))).getV 0 = 5 ∧
    (left (run 0x6005 (State.reset.setPc 4094))).pc = 4096 := by decide

/-- E13: no post-check after InvalidInstruction. -/
theorem test_step_E13 :
    code (run 0xF0FF (State.reset.setPc 4094)) = 5 ∧ (left (run 0xF0FF (State.reset.setPc 4094))).pc = 4096 := by decide

/-- E9. -/
theorem test_step_E9 :
    code (run 0x6005 (State.reset.setPc 4095)) = 1 ∧ (left (run 0x6005 (State.reset.setPc 4095))).pc = 4095 ∧
    (left (run 0x6005 (State.reset.setPc 4095))).ir = 0 := by decide

/-- Q1. -/
theorem test_step_Q1 :
    code (run 0x2300 ((State.reset.setPc 4094).setSp 16)) = 2 ∧ (left (run 0x2300 ((State.reset.setPc 4094).setSp 16))).pc = 4096 := by decide

/-- M3. -/
theorem test_timer_M3 :
    (left (stepWith 16667 0 (placeWordAtPc (State.reset.setDt 0x2A) 0xF107))).dt = 0x29 ∧
    (left (stepWith 16667 0 (placeWordAtPc (State.reset.setDt 0x2A) 0xF107))).tref = 16667 := by decide

/-- M2. -/
theorem test_timer_M2 :
    (left (stepWith 16666 0 (placeWordAtPc (State.reset.setDt 0x2A) 0xF107))).dt = 0x2A ∧
    (left (stepWith 16666 0 (placeWordAtPc (State.reset.setDt 0x2A) 0xF107))).tref = 0 := by decide

/-- M11. -/
theorem test_timer_M11 :
    (left (stepWith 16667 0 (placeWordAtPc ((State.reset.setDt 2).setSt 2) 0xFFFF))).dt = 1 ∧
    (left (stepWith 16667 0 (placeWordAtPc ((State.reset.setDt 2).setSt 2) 0xFFFF))).st = 1 := by decide

/-! ### Control flow (T-CF) -/

/-- CF1. -/
theorem test_jump :
    ok (run 0x1ABC State.reset) = true ∧
    (left (run 0x1ABC State.reset)).pc = 0xABC := by decide

/-- CF4. -/
theorem test_call :
    ok (run 0x2300 ((State.reset.setPc 0x24A).setSp 15)) = true ∧
    (left (run 0x2300 ((State.reset.setPc 0x24A).setSp 15))).stk[15] = 0x24C ∧
    (left (run 0x2300 ((State.reset.setPc 0x24A).setSp 15))).sp = 16 ∧
    (left (run 0x2300 ((State.reset.setPc 0x24A).setSp 15))).pc = 0x300 := by decide

/-- CF5. -/
theorem test_call_full :
    code (run 0x2300 ((State.reset.setPc 0x24A).setSp 16)) = 2 ∧
    (left (run 0x2300 ((State.reset.setPc 0x24A).setSp 16))).sp = 16 ∧
    (left (run 0x2300 ((State.reset.setPc 0x24A).setSp 16))).pc = 0x24C := by decide

/-- CF6. -/
theorem test_ret :
    ok (run 0x00EE (((State.reset.setPc 0x300).setSp 1).setStk 0 0x24C)) = true ∧
    (left (run 0x00EE (((State.reset.setPc 0x300).setSp 1).setStk 0 0x24C))).sp = 0 ∧
    (left (run 0x00EE (((State.reset.setPc 0x300).setSp 1).setStk 0 0x24C))).pc = 0x24C ∧
    (left (run 0x00EE (((State.reset.setPc 0x300).setSp 1).setStk 0 0x24C))).stk[0] = 0x24C := by decide

/-- CF7. -/
theorem test_ret_empty :
    code (run 0x00EE (State.reset.setPc 0x300)) = 3 ∧
    (left (run 0x00EE (State.reset.setPc 0x300))).sp = 0 ∧
    (left (run 0x00EE (State.reset.setPc 0x300))).pc = 0x302 := by decide

/-- CF10. -/
theorem test_skipEqImm :
    ok (run 0x3A42 (withV 0xA 0x42)) = true ∧
    (left (run 0x3A42 (withV 0xA 0x42))).pc = 0x204 := by decide

/-- CF11. -/
theorem test_skipEqImm_not :
    ok (run 0x3A42 (withV 0xA 0x41)) = true ∧
    (left (run 0x3A42 (withV 0xA 0x41))).pc = 0x202 := by decide

/-- CF13. -/
theorem test_skipNeImm :
    ok (run 0x4A42 (withV 0xA 0x41)) = true ∧
    (left (run 0x4A42 (withV 0xA 0x41))).pc = 0x204 := by decide

/-- CF14. -/
theorem test_skipEqReg :
    ok (run 0x5120 (withVV 1 7 2 7)) = true ∧
    (left (run 0x5120 (withVV 1 7 2 7))).pc = 0x204 := by decide

/-- CF18. -/
theorem test_skipNeReg :
    ok (run 0x9120 (withVV 1 7 2 7)) = true ∧
    (left (run 0x9120 (withVV 1 7 2 7))).pc = 0x202 := by decide

/-- CF17. -/
theorem test_skipNeReg_taken :
    ok (run 0x9120 (withVV 1 7 2 8)) = true ∧
    (left (run 0x9120 (withVV 1 7 2 8))).pc = 0x204 := by decide

/-- CF19. -/
theorem test_jumpIndexed :
    ok (run 0xB300 (withV 0 0x10)) = true ∧
    (left (run 0xB300 (withV 0 0x10))).pc = 0x310 := by decide

/-- CF22. -/
theorem test_jumpIndexed_beyond :
    code (run 0xBFFF (withV 0 0xFF)) = 4 ∧
    (left (run 0xBFFF (withV 0 0xFF))).pc = 4350 := by decide

/-! ### Loads, arithmetic, logic, shifts, random (T-ALU) -/

/-- A3. -/
theorem test_add_A3 :
    ok (run 0x8014 (withVV 0 0xFF 1 0x01)) = true ∧
    (left (run 0x8014 (withVV 0 0xFF 1 0x01))).getV 0 = 0x00 ∧
    (left (run 0x8014 (withVV 0 0xFF 1 0x01))).getV vf = 1 := by decide

/-- A9. -/
theorem test_add_A9 :
    ok (run 0x80F4 (withVV 0 0x10 vf 0xF0)) = true ∧
    (left (run 0x80F4 (withVV 0 0x10 vf 0xF0))).getV 0 = 0x11 ∧
    (left (run 0x80F4 (withVV 0 0x10 vf 0xF0))).getV vf = 1 := by decide

/-- A12. -/
theorem test_sub_A12 :
    ok (run 0x8015 (withVV 0 3 1 5)) = true ∧
    (left (run 0x8015 (withVV 0 3 1 5))).getV 0 = 0xFE ∧
    (left (run 0x8015 (withVV 0 3 1 5))).getV vf = 0 := by decide

/-- A15. -/
theorem test_sub_A15 :
    ok (run 0x8F15 (withVV vf 9 1 4)) = true ∧
    (left (run 0x8F15 (withVV vf 9 1 4))).getV vf = 0xFD := by decide

/-- A21. -/
theorem test_shiftRight_A21 :
    ok (run 0x82F6 (withVV 2 0x05 vf 0xAA)) = true ∧
    (left (run 0x82F6 (withVV 2 0x05 vf 0xAA))).getV 2 = 0x02 ∧
    (left (run 0x82F6 (withVV 2 0x05 vf 0xAA))).getV vf = 1 := by decide

/-- A24. -/
theorem test_shiftRight_A24 :
    ok (run 0x8F06 (withV vf 0xFF)) = true ∧
    (left (run 0x8F06 (withV vf 0xFF))).getV vf = 0 := by decide

/-- A26. -/
theorem test_subn_A26 :
    ok (run 0x8017 (withVV 0 5 1 3)) = true ∧
    (left (run 0x8017 (withVV 0 5 1 3))).getV 0 = 0xFE ∧
    (left (run 0x8017 (withVV 0 5 1 3))).getV vf = 0 := by decide

/-- A30. -/
theorem test_subn_A30 :
    ok (run 0x80F7 (withVV 0 4 vf 9)) = true ∧
    (left (run 0x80F7 (withVV 0 4 vf 9))).getV 0 = 0xFD ∧
    (left (run 0x80F7 (withVV 0 4 vf 9))).getV vf = 1 := by decide

/-- A33. -/
theorem test_shiftLeft_A33 :
    ok (run 0x830E (withV 3 0x81)) = true ∧
    (left (run 0x830E (withV 3 0x81))).getV 3 = 0x02 ∧
    (left (run 0x830E (withV 3 0x81))).getV vf = 1 := by decide

/-- A36. -/
theorem test_shiftLeft_A36 :
    ok (run 0x8F0E (withV vf 0x80)) = true ∧
    (left (run 0x8F0E (withV vf 0x80))).getV vf = 2 := by decide

/-- A39. -/
theorem test_loadImm :
    ok (run 0x6FAB State.reset) = true ∧
    (left (run 0x6FAB State.reset)).getV vf = 0xAB := by decide

/-- A41. -/
theorem test_addImm :
    ok (run 0x7001 (withVV 0 0xFF vf 7)) = true ∧
    (left (run 0x7001 (withVV 0 0xFF vf 7))).getV 0 = 0 ∧
    (left (run 0x7001 (withVV 0 0xFF vf 7))).getV vf = 7 := by decide

/-- A43. -/
theorem test_move :
    ok (run 0x8120 (withV 2 0x33)) = true ∧
    (left (run 0x8120 (withV 2 0x33))).getV 1 = 0x33 := by decide

/-- A44. -/
theorem test_or :
    ok (run 0x8121 ((withVV 1 0xF0 2 0x0F).setV vf 9)) = true ∧
    (left (run 0x8121 ((withVV 1 0xF0 2 0x0F).setV vf 9))).getV 1 = 0xFF ∧
    (left (run 0x8121 ((withVV 1 0xF0 2 0x0F).setV vf 9))).getV vf = 9 := by decide

/-- A45. -/
theorem test_and :
    ok (run 0x8122 (withVV 1 0xF0 2 0x3C)) = true ∧
    (left (run 0x8122 (withVV 1 0xF0 2 0x3C))).getV 1 = 0x30 := by decide

/-- A46. -/
theorem test_xor :
    ok (run 0x8123 (withVV 1 0xF0 2 0x3C)) = true ∧
    (left (run 0x8123 (withVV 1 0xF0 2 0x3C))).getV 1 = 0xCC := by decide

/-- A48: `rand` = 0xA7. -/
theorem test_random :
    ok (run 0xC30F State.reset) = true ∧
    (left (run 0xC30F State.reset)).getV 3 = 0x07 := by decide

/-! ### Index register and block memory (T-IDX) -/

/-- X1. -/
theorem test_loadIndex :
    ok (run 0xA123 State.reset) = true ∧
    (left (run 0xA123 State.reset)).i = 0x123 := by decide

/-- X4. -/
theorem test_addIndex_X4 :
    ok (run 0xF21E ((withV 2 1).setI 4095)) = true ∧
    (left (run 0xF21E ((withV 2 1).setI 4095))).i = 4096 ∧
    (left (run 0xF21E ((withV 2 1).setI 4095))).warn = true := by decide

/-- X6. -/
theorem test_addIndex_X6 :
    ok (run 0xF21E ((withV 2 0xFF).setI 0xFFFF)) = true ∧
    (left (run 0xF21E ((withV 2 0xFF).setI 0xFFFF))).i = 0x00FE ∧
    (left (run 0xF21E ((withV 2 0xFF).setI 0xFFFF))).warn = false := by decide

/-- X8. -/
theorem test_loadFontIndex :
    ok (run 0xF429 (withV 4 0xFF)) = true ∧
    (left (run 0xF429 (withV 4 0xFF))).i = 1275 := by decide

/-- X10. -/
theorem test_storeBcd_X10 :
    ok (run 0xF033 ((withV 0 255).setI 4093)) = true ∧
    (left (run 0xF033 ((withV 0 255).setI 4093))).mem.readByte 4093 = 2 ∧
    (left (run 0xF033 ((withV 0 255).setI 4093))).mem.readByte 4094 = 5 ∧
    (left (run 0xF033 ((withV 0 255).setI 4093))).mem.readByte 4095 = 5 := by decide

/-- X11. -/
theorem test_storeBcd_X11 :
    code (run 0xF033 ((withV 0 255).setI 4094)) = 1 ∧
    (left (run 0xF033 ((withV 0 255).setI 4094))).mem.readByte 4094 = 0 ∧
    (left (run 0xF033 ((withV 0 255).setI 4094))).mem.readByte 4095 = 0 ∧
    (left (run 0xF033 ((withV 0 255).setI 4094))).pc = 0x202 := by decide

/-- X15. -/
theorem test_storeRegs_X15 :
    ok (run 0xF055 ((withV 0 0x77).setI 4095)) = true ∧
    (left (run 0xF055 ((withV 0 0x77).setI 4095))).mem.readByte 4095 = 0x77 := by decide

/-- X16. -/
theorem test_storeRegs_X16 :
    code (run 0xF055 ((withV 0 0x77).setI 4096)) = 1 ∧
    (left (run 0xF055 ((withV 0 0x77).setI 4096))).i = 4096 := by decide

/-- X17. -/
theorem test_loadRegs_X17 :
    ok (run 0xF265 (((State.reset.setMem (State.reset.mem.writeBytes 0x300 [2, 3, 4, 5])).setI 0x300).setV 3 0x99)) = true ∧
    (left (run 0xF265 (((State.reset.setMem (State.reset.mem.writeBytes 0x300 [2, 3, 4, 5])).setI 0x300).setV 3 0x99))).getV 0 = 2 ∧
    (left (run 0xF265 (((State.reset.setMem (State.reset.mem.writeBytes 0x300 [2, 3, 4, 5])).setI 0x300).setV 3 0x99))).getV 2 = 4 ∧
    (left (run 0xF265 (((State.reset.setMem (State.reset.mem.writeBytes 0x300 [2, 3, 4, 5])).setI 0x300).setV 3 0x99))).getV 3 = 0x99 ∧
    (left (run 0xF265 (((State.reset.setMem (State.reset.mem.writeBytes 0x300 [2, 3, 4, 5])).setI 0x300).setV 3 0x99))).i = 0x300 := by decide

/-- X18. -/
theorem test_loadRegs_X18 :
    code (run 0xF265 (((State.reset.setMem (State.reset.mem.writeBytes 4094 [1, 2])).setI 4094).setV 0 9)) = 1 ∧
    (left (run 0xF265 (((State.reset.setMem (State.reset.mem.writeBytes 4094 [1, 2])).setI 4094).setV 0 9))).getV 0 = 9 := by decide

/-! ### Display (T-DSP) -/

/-- DS3. -/
theorem test_draw_DS3 :
    ok (run 0xD011 (((withVV 0 0xFF 1 0xFF).setMem (State.reset.mem.writeByte 0x300 0x80)).setI 0x300)) = true ∧
    (left (run 0xD011 (((withVV 0 0xFF 1 0xFF).setMem (State.reset.mem.writeByte 0x300 0x80)).setI 0x300))).fb.cell 63 31 = true ∧
    (left (run 0xD011 (((withVV 0 0xFF 1 0xFF).setMem (State.reset.mem.writeByte 0x300 0x80)).setI 0x300))).getV vf = 0 ∧
    (left (run 0xD011 (((withVV 0 0xFF 1 0xFF).setMem (State.reset.mem.writeByte 0x300 0x80)).setI 0x300))).dirty = true := by decide

/-- DS5. -/
theorem test_draw_DS5 :
    ok (run 0xD011 (((State.reset.setMem (State.reset.mem.writeByte 0x300 0xF0)).setI 0x300).setFb ((Framebuffer.clear.setCell 3 0 true).setCell 5 0 true))) = true ∧
    (left (run 0xD011 (((State.reset.setMem (State.reset.mem.writeByte 0x300 0xF0)).setI 0x300).setFb ((Framebuffer.clear.setCell 3 0 true).setCell 5 0 true)))).fb.cell 2 0 = true ∧
    (left (run 0xD011 (((State.reset.setMem (State.reset.mem.writeByte 0x300 0xF0)).setI 0x300).setFb ((Framebuffer.clear.setCell 3 0 true).setCell 5 0 true)))).fb.cell 3 0 = false ∧
    (left (run 0xD011 (((State.reset.setMem (State.reset.mem.writeByte 0x300 0xF0)).setI 0x300).setFb ((Framebuffer.clear.setCell 3 0 true).setCell 5 0 true)))).fb.cell 5 0 = true ∧
    (left (run 0xD011 (((State.reset.setMem (State.reset.mem.writeByte 0x300 0xF0)).setI 0x300).setFb ((Framebuffer.clear.setCell 3 0 true).setCell 5 0 true)))).getV vf = 1 := by decide

/-- DS14. -/
theorem test_clearDisplay :
    ok (run 0x00E0 (State.reset.setFb (Framebuffer.clear.setCell 4 3 true))) = true ∧
    (left (run 0x00E0 (State.reset.setFb (Framebuffer.clear.setCell 4 3 true)))).fb.cell 4 3 = false ∧
    (left (run 0x00E0 (State.reset.setFb (Framebuffer.clear.setCell 4 3 true)))).dirty = false := by decide

/-! ### Keys and timers (T-KEY, T-TMR) -/

/-- K1. -/
theorem test_skipIfPressed_K1 :
    ok (run 0xE59E (((withV 5 10).setPc 0x240).setKeyCell 10 true)) = true ∧
    (left (run 0xE59E (((withV 5 10).setPc 0x240).setKeyCell 10 true))).pc = 0x244 := by decide

/-- K6. -/
theorem test_skipIfPressed_K6 :
    code (run 0xE59E ((withV 5 16).setPc 0x240)) = 7 ∧
    (left (run 0xE59E ((withV 5 16).setPc 0x240))).pc = 0x242 := by decide

/-- K4. -/
theorem test_skipIfNotPressed_K4 :
    ok (run 0xE5A1 (((withV 5 10).setPc 0x240).setKeyCell 10 true)) = true ∧
    (left (run 0xE5A1 (((withV 5 10).setPc 0x240).setKeyCell 10 true))).pc = 0x242 := by decide

/-- K3. -/
theorem test_skipIfNotPressed_K3 :
    ok (run 0xE5A1 ((withV 5 10).setPc 0x240)) = true ∧
    (left (run 0xE5A1 ((withV 5 10).setPc 0x240))).pc = 0x244 := by decide

/-- K8. -/
theorem test_waitForKey_K8 :
    ok (run 0xF30A ((withV 3 0x55).setPc 0x250)) = true ∧
    (left (run 0xF30A ((withV 3 0x55).setPc 0x250))).pc = 0x250 ∧
    (left (run 0xF30A ((withV 3 0x55).setPc 0x250))).getV 3 = 0x55 := by decide

/-- K9. -/
theorem test_waitForKey_K9 :
    ok (run 0xF30A (((withV 3 0x55).setPc 0x250).setKeyCell 7 true |>.setKeyCell 2 true)) = true ∧
    (left (run 0xF30A (((withV 3 0x55).setPc 0x250).setKeyCell 7 true |>.setKeyCell 2 true))).pc = 0x252 ∧
    (left (run 0xF30A (((withV 3 0x55).setPc 0x250).setKeyCell 7 true |>.setKeyCell 2 true))).getV 3 = 2 := by decide

/-- M1. -/
theorem test_loadDt :
    ok (run 0xF107 (State.reset.setDt 0x2A)) = true ∧
    (left (run 0xF107 (State.reset.setDt 0x2A))).getV 1 = 0x2A ∧
    (left (run 0xF107 (State.reset.setDt 0x2A))).dt = 0x2A := by decide

/-- M4. -/
theorem test_setDt :
    (left (stepWith 20000 0 (placeWordAtPc ((withV 0 10).setDt 3) 0xF015))).dt = 10 ∧
    (left (stepWith 20000 0 (placeWordAtPc ((withV 0 10).setDt 3) 0xF015))).tref = 20000 := by decide

/-- M5. -/
theorem test_setSt :
    ok (run 0xF218 (withV 2 0x3C)) = true ∧
    (left (run 0xF218 (withV 2 0x3C))).st = 0x3C := by decide

/-! ### Host (T-HOST) -/

/-- H4, H5. -/
theorem test_host_keys :
    (setKey 3 State.reset).key[3] = true ∧ (clearKey 3 (setKey 3 State.reset)).key[3] = false := by decide

/-- H1 in small: the image starts at 0x200. -/
theorem test_host_load :
    (loadRom [0xAA, 0xBB] State.reset).2.mem.readByte 0x1FF = 0 ∧ (loadRom [0xAA, 0xBB] State.reset).2.mem.readByte 0x201 = 0xBB := by decide

/-- H2. -/
theorem test_host_load_too_large :
    loadRom (List.replicate 3585 0xAA) State.reset = (some .romTooLarge, State.reset) := by
  unfold loadRom
  rw [if_pos (by rw [List.length_replicate]; decide)]

/-- H6, H7. -/
theorem test_host_consume :
    (consumeFramebuffer (State.reset.setDirty true)).2.dirty = false ∧ isDrawPending (State.reset.setDirty true) = true := by decide

/-! ### Hypotheses met: encoding, memory -/

/-- EncodeOfDecodeIsTheWord, DecodeFollowsTheOneMatchingRow (recognised). -/
theorem test_hyp_decode_ok :
    decodeWord 0x8006 = .ok (.shiftRight 0 0) ∧ decodeWord 0x80F6 = .ok (.shiftRight 0 0xF) := by decide

/-- DecodeFollowsTheOneMatchingRow (unrecognised). -/
theorem test_hyp_decode_error :
    decodeWord 0xE0A0 = .error (.unrecognised 0xE0A0) := by decide

/-- MemReadAndMemWriteAreBoundedBlocks, the read where its clauses meet. -/
theorem test_hyp_memRead :
    memRead [] 4094 2 = some [0, 0] ∧ memRead [] 4096 0 = some [] ∧ memRead [] 4095 2 = none ∧ memRead [] 4097 0 = none := by decide

/-- MemReadAndMemWriteAreBoundedBlocks, the write where its clauses meet. -/
theorem test_hyp_memWrite :
    memWrite [] 4095 [7] = some [(4095, 7)] ∧ memWrite [] 4095 [7, 8] = none ∧ memWrite [] 4096 [] = some [] := by decide

/-- FetchIsBigEndian, StepRunsTheDecodedInstruction, UnrecognisedWordRaisesInvalidInstruction at the last word of memory. -/
theorem test_hyp_fetch :
    (State.reset.setPc 4094).pc.toNat + 2 ≤ 4096 := by decide

/-- FetchSeesTheStoreOfTheStepBefore. -/
theorem test_hyp_fetchSeesStore :
    ∃ t, exec (.storeRegs 1) (State.reset.setI 0x202 |>.setPc 0x202) = .next t ∧
    t.pc.toNat = (State.reset.setI 0x202 |>.setPc 0x202).i.toNat + 0 ∧ 0 + 1 ≤ (1 : Reg).val := ⟨_, rfl, by decide, by decide⟩

/-! ### Hypotheses met: registers, control flow -/

/-- AddSubSubnOutsideVf, ShiftsOutsideVfIgnoreY, AddSubSubnNamingVf, DrawingTwiceRestoresTheFramebuffer. -/
theorem test_hyp_notVf :
    (0 : Reg) ≠ vf ∧ (14 : Reg) ≠ vf := by decide

/-- RegisterSkipsMovePc, KeySkipsMovePc at the top. -/
theorem test_hyp_skip :
    (State.reset.setPc 4096).pc.toNat ≤ 4096 := by decide

/-- CallStacksTheReturnAddress. -/
theorem test_hyp_call :
    State.reset.sp.toNat < 16 ∧ (State.reset.setSp 15).sp.toNat < 16 := by decide

/-- ReturnPopsTheNewestAddress. -/
theorem test_hyp_ret :
    0 < (State.reset.setSp 1).sp.toNat ∧ (State.reset.setSp 16).sp.toNat ≤ 16 ∧ 0 < (State.reset.setSp 16).sp.toNat := by decide

/-- StackErrorsChangeNothing. -/
theorem test_hyp_stackErrors :
    (State.reset.setSp 16).sp.toNat = 16 ∧ State.reset.sp.toNat = 0 := by decide

/-- ReturnUndoesCall. -/
theorem test_hyp_retUndoesCall :
    ∃ t u : State, exec (.call 0x300) State.reset = .next t ∧ u.stk = t.stk ∧ u.sp = t.sp := ⟨_, _, rfl, rfl, rfl⟩

/-! ### Hypotheses met: block memory, display, keys -/

/-- StoreBcdWritesDecimalDigits, both clauses where they meet. -/
theorem test_hyp_bcd :
    dataAddress (State.reset.setI 4093) + 3 ≤ 4096 ∧ 4096 < dataAddress (State.reset.setI 4094) + 3 := by decide

/-- StoreRegsWritesTheBlock, LoadRegsReadsTheBlock, both clauses where they meet. -/
theorem test_hyp_regs :
    dataAddress (State.reset.setI 4095) + (0 : Reg).val + 1 ≤ 4096 ∧ 4096 < dataAddress (State.reset.setI 4095) + (1 : Reg).val + 1 ∧
    (0 : Reg) ≤ 0 ∧ (0 : Reg) < 1 := by decide

/-- LoadRegsUndoesStoreRegs. -/
theorem test_hyp_loadUndoesStore :
    ∃ t u : State, exec (.storeRegs 2) (State.reset.setI 0x300) = .next t ∧ u.i = (State.reset.setI 0x300).i ∧ u.mem = t.mem := ⟨_, _, rfl, rfl, rfl⟩

/-- DrawInvertsTheCellsUnderTheSprite, both clauses where they meet (DS8, DS10, DS11). -/
theorem test_hyp_draw :
    dataAddress (State.reset.setI 4081) + (15 : RowCount).val ≤ 4096 ∧ dataAddress (State.reset.setI 4096) + (0 : RowCount).val ≤ 4096 ∧
    4096 < dataAddress (State.reset.setI 4082) + (15 : RowCount).val := by decide

/-- DrawingTwiceRestoresTheFramebuffer. -/
theorem test_hyp_drawTwice :
    ∃ t u : State, exec (.draw 0 1 4) State.reset = .next t ∧ exec (.draw 0 1 4) t = .next u := ⟨_, _, rfl, rfl⟩

/-- DrawStaysInItsRectangle, each side (S5: columns 60 to 3, rows 30 to 1). -/
theorem test_hyp_drawRectangle :
    (∃ t, exec (.draw 0 1 4) (withVV 0 60 1 30) = .next t) ∧
    (∀ j < 8, (4 : Fin 64).val ≠ (((withVV 0 60 1 30).getV 0).toNat + j) % 64) ∧
    (∀ r < (4 : RowCount).val, (2 : Fin 32).val ≠ (((withVV 0 60 1 30).getV 1).toNat + r) % 32) := ⟨⟨_, rfl⟩, by decide, by decide⟩

/-- KeySkipsMovePc, both clauses where they meet. -/
theorem test_hyp_keySkip :
    ((withV 5 15).getV 5).toNat = (15 : Fin 16).val ∧ 15 < ((withV 5 16).getV 5).toNat := by decide

/-- WaitForKeyRetriesOrTakesTheLowestKey, no key down. -/
theorem test_hyp_waitNoKey :
    (∀ k : Fin 16, State.reset.key[k] = false) ∧ 2 ≤ (State.reset.setPc 2).pc.toNat := by decide

/-- WaitForKeyRetriesOrTakesTheLowestKey, a key down. -/
theorem test_hyp_waitKey :
    (State.reset.setKeyCell 15 true).key[(15 : Fin 16)] = true ∧
    ∀ j : Fin 16, j < 15 → (State.reset.setKeyCell 15 true).key[j] = false := by decide

/-! ### Hypotheses met: frames, one instruction of each family that answers a next state -/

theorem test_hyp_frame_controlFlow :
    familyOf (.call 0x300) = .controlFlow ∧ ∃ t, exec (.call 0x300) State.reset = .next t := ⟨rfl, _, rfl⟩

theorem test_hyp_frame_alu :
    familyOf (.add 0 1) = .alu ∧ ∃ t, exec (.add 0 1) State.reset = .next t := ⟨rfl, _, rfl⟩

theorem test_hyp_frame_indexMemory :
    familyOf (.storeRegs 3) = .indexMemory ∧ ∃ t, exec (.storeRegs 3) State.reset = .next t := ⟨rfl, _, rfl⟩

theorem test_hyp_frame_display :
    familyOf (.draw 0 1 2) = .display ∧ ∃ t, exec (.draw 0 1 2) State.reset = .next t := ⟨rfl, _, rfl⟩

theorem test_hyp_frame_keysTimers :
    familyOf (.waitForKey 0) = .keysTimers ∧ ∃ t, exec (.waitForKey 0) State.reset = .next t := ⟨rfl, _, rfl⟩

/-! ### Hypotheses met: steps and errors -/

/-- StepRunsTheDecodedInstruction. -/
theorem test_hyp_stepRuns :
    State.reset.pc.toNat + 2 ≤ 4096 ∧ decodeWord (wordAtPc (placeWordAtPc State.reset 0x8014)) = .ok (.add 0 1) := by decide

/-- UnrecognisedWordRaisesInvalidInstruction (E2, E13). -/
theorem test_hyp_unrecognised :
    (∀ r ∈ opcodeTable, r.selects (wordAtPc State.reset) = false) ∧
    ∀ r ∈ opcodeTable, r.selects (wordAtPc (placeWordAtPc (State.reset.setPc 4094) 0xF0FF)) = false := by decide

/-- FetchBeyondMemoryRaisesOutOfBounds. -/
theorem test_hyp_fetchBeyond :
    4095 ≤ (State.reset.setPc 4095).pc.toNat ∧ 4095 ≤ (State.reset.setPc 4350).pc.toNat := by decide

/-- TimerPhaseCountsDownOnce, both clauses where they meet, and a `now` below TREF. -/
theorem test_hyp_timer :
    State.reset.tref + 16667 ≤ 16667 ∧ 16666 < State.reset.tref + 16667 ∧ 4 < (State.reset.setTref 5).tref + 16667 := by decide

/-- OnlyTimerWritesRaiseATimer, a completed step and a failed one. -/
theorem test_hyp_timersRaised :
    (∃ t, stepWith 0 0 (placeWordAtPc State.reset 0x1200) = .next t) ∧
    (∃ f, stepWith 0 0 State.reset = .fault f ∧ stateLeft f = afterFetch 0 0 State.reset) ∧
    (∀ x, decodeWord (wordAtPc (placeWordAtPc State.reset 0x1200)) ≠ .ok (.setDt x)) ∧
    (∀ x, decodeWord (wordAtPc (placeWordAtPc State.reset 0x1200)) ≠ .ok (.setSt x)) ∧
    (∀ x, decodeWord (wordAtPc State.reset) ≠ .ok (.setDt x)) ∧ (∀ x, decodeWord (wordAtPc State.reset) ≠ .ok (.setSt x)) := ⟨⟨_, rfl⟩, ⟨_, rfl, rfl⟩, by decide, by decide, by decide, by decide⟩

/-- SoundTimerReferenceAndScratchAreUnread. -/
theorem test_hyp_setSt :
    (∀ x, Instr.loadDt 0 ≠ .setSt x) ∧ ∃ x, Instr.setSt 3 = .setSt x := ⟨by decide, 3, rfl⟩

/-- ExecuteErrorsAreThoseOfTheTable, errors of an execute phase. -/
theorem test_hyp_executeError :
    exec .ret State.reset = .fault (.stackUnderflow State.reset) ∧
    exec (.call 0) (State.reset.setSp 17) = .fault (.stackPointerBeyondStack (State.reset.setSp 17)) := ⟨rfl, rfl⟩

/-- ExecuteErrorsAreThoseOfTheTable, the steps whose codes it gives. -/
theorem test_hyp_codes :
    4095 ≤ (State.reset.setPc 4095).pc.toNat ∧ (State.reset.setPc 4094).pc.toNat ≤ 4094 ∧
    decodeWord (wordAtPc State.reset) = .error (.unrecognised 0) ∧
    decodeWord (wordAtPc (placeWordAtPc State.reset 0x00EE)) = .ok .ret ∧
    decodeWord (wordAtPc (placeWordAtPc (State.reset.setPc 4094) 0x6005)) = .ok (.loadImm 0 5) ∧
    (exec .ret (afterFetch 0 0 (placeWordAtPc State.reset 0x00EE)) =
      .fault (.stackUnderflow (afterFetch 0 0 (placeWordAtPc State.reset 0x00EE)))) ∧
    ∃ t, exec (.loadImm 0 5) (afterFetch 0 0 (placeWordAtPc (State.reset.setPc 4094) 0x6005)) = .next t ∧ 4096 ≤ t.pc.toNat := ⟨by decide, by decide, by decide, by decide, by decide, rfl, _, rfl, by decide⟩

/-- The codes of R240's table. -/
theorem test_codes :
    resultCode (run 0xFFFF State.reset) = some 5 ∧ resultCode (run 0x6005 State.reset) = some 0 ∧
    loadResultCode (some .romTooLarge) = 6 ∧ loadResultCode none = 0 := by decide

/-- StepErrorsLeaveTheStateOfTheSummary (its three rows), StepErrorsLeaveABoundedState. -/
theorem test_hyp_stepFaults :
    (∃ f, stepWith 0 0 (State.reset.setPc 4095) = .fault f) ∧ (∃ f, stepWith 0 0 State.reset = .fault f) ∧
    (∃ f, stepWith 0 0 (placeWordAtPc (State.reset.setPc 4094) 0x6005) = .fault f) ∧ State.reset.Bounded ∧ State.reset.now ≤ 0 := ⟨⟨_, rfl⟩, ⟨_, rfl⟩, ⟨_, rfl⟩, by decide, by decide⟩

/-- StepKeepsTheInvariant: such a step is taken, -/
theorem test_hyp_stepInv :
    ∃ t, step (placeWordAtPc State.reset 0x6005) = .next t := ⟨_, rfl⟩

/-- from a state that meets the invariant (StepKeepsTheInvariant, TransactionsKeepTheInvariant). -/
theorem test_hyp_inv :
    (placeWordAtPc State.reset 0x6005).Inv := by decide

/-- The invariant at its bounds. -/
theorem test_hyp_inv_edge :
    (State.reset.setPc 4095).Inv ∧ (State.reset.setSp 16).Inv ∧ ¬ (State.reset.setSp 17).Inv ∧ ¬ (State.reset.setPc 4096).Inv ∧
    (State.reset.setPc 4096).Bounded := by decide

/-- EveryHistoryFromResetKeepsTheInvariant, its clock, both its endings. -/
theorem test_hyp_history :
    clockNeverDecreases 0 [.host (.loadRom [0x60, 0x05]), .step 5 0, .host (.setKey 3), .step 20000 1] = true ∧
    (∃ f, history [.host (.loadRom [0x60, 0x05]), .step 5 0, .host (.setKey 3), .step 20000 1] (resetMachine 0 State.reset) = .fault f) ∧
    ∃ t, history [.host (.loadRom [0x60, 0x05]), .step 5 0] (resetMachine 0 State.reset) = .next t := by
  rw [resetMachine_eq]
  exact ⟨rfl, ⟨_, rfl⟩, ⟨_, rfl⟩⟩

theorem test_hyp_clock :
    clockNeverDecreases 6 [.step 5 0] = false := by decide

/-! ### Hypotheses met: host -/

/-- LoadRomWritesFrom0x200, both clauses where they meet. -/
theorem test_hyp_rom :
    (List.replicate 3584 (0xAA : Byte)).length ≤ 3584 ∧ 3584 < (List.replicate 3585 (0xAA : Byte)).length := by
  rw [List.length_replicate, List.length_replicate]
  decide

/-- KeysAreLevelsWrittenByTheHostOnly. -/
theorem test_hyp_key :
    (setKey 4 State.reset).key[(4 : Fin 16)] = true ∧ State.reset.key[(4 : Fin 16)] = false ∧
    ok (run 0x6005 State.reset) = true ∧ code (run 0xFFFF State.reset) = 5 ∧ isKeyTransaction .snapshot = false ∧
    (∀ now, Transaction.snapshot ≠ .reset now) ∧
    (∀ x, Instr.ret ≠ .skipIfPressed x) ∧ (∀ x, Instr.ret ≠ .skipIfNotPressed x) ∧ ∀ x, Instr.ret ≠ .waitForKey x := ⟨by decide, by decide, by decide, by decide, by decide, (fun _ h => by cases h), by decide, by decide, by decide⟩

/-- CleanLaunchState, with a key held. -/
theorem test_hyp_cleanLaunch :
    ∃ t, CleanLaunch [0x60, 0x05] 7 t ∧ t.key[(3 : Fin 16)] = true ∧ t.key[(4 : Fin 16)] = false := by
  refine ⟨_, ⟨by decide, State.reset, _, [.setKey 3, .setKey 4, .clearKey 4], rfl, by decide, rfl⟩, ?_⟩
  rw [resetMachine_eq]
  decide

/-- CleanLaunchState, the longest image. -/
theorem test_hyp_cleanLaunch_edge :
    (List.replicate 3584 (0xAA : Byte)).length ≤ 3584 := by
  rw [List.length_replicate]

/-- DirtyIsClearedByConsumeAndResetOnly. -/
theorem test_hyp_dirty :
    (State.reset.setDirty true).dirty = true ∧ ok (run 0x6005 (State.reset.setDirty true)) = true ∧
    code (run 0xFFFF (State.reset.setDirty true)) = 5 ∧ Transaction.snapshot ≠ .consumeFramebuffer ∧
    ∀ now, Transaction.snapshot ≠ .reset now := ⟨by decide, by decide, by decide, by decide, fun _ h => by cases h⟩

/-- IdleStatesStayIdle (CF2). -/
theorem test_hyp_idle :
    Idle (placeWordAtPc State.reset 0x1200) := by decide

end Sys2Proof.Tests
end

section
/-!
PROOF. The fetch forms the opcode word big-endian (R56): the fetch rule of Machine's laws and the value of a word built
from its two bytes.
-/
namespace Sys2Proof.Proofs.Memory
open Sys2Proof.Machine

/-- IR after a fetch that succeeds. -/
theorem fetch_ir_of_room {s : State} (h : s.pc.toNat + 2 ≤ 4096) : ∃ t, fetch s = some t ∧ t.ir = wordAtPc s :=
  ⟨_, fetch_of_room h, rfl⟩

/-- The word at PC as a number: the byte at PC is the high byte (R56). -/
theorem wordAtPc_toNat (s : State) :
    (wordAtPc s).toNat = (s.mem.readByte s.pc.toNat).toNat * 256 + (s.mem.readByte (s.pc.toNat + 1)).toNat :=
  wordOfBytes_toNat _ _

/-- Settles O7: the fetch rule gives IR, and a low byte below 256 makes the two halves of its value unique. -/
theorem fetchIsBigEndian : Obligations.FetchIsBigEndian := by
  intro s hroom
  obtain ⟨t, hfetch, hir⟩ := fetch_ir_of_room hroom
  have hvalue : t.ir.toNat =
      (s.mem.readByte s.pc.toNat).toNat * 256 + (s.mem.readByte (s.pc.toNat + 1)).toNat := by
    rw [hir, wordAtPc_toNat]
  have hlow : (s.mem.readByte (s.pc.toNat + 1)).toNat < 256 := BitVec.isLt _
  refine ⟨t, hfetch, hvalue, ?_, ?_⟩
  · omega
  · omega

end Sys2Proof.Proofs.Memory
end

section
/-!
PROOF. A step at a word no row of the opcode table selects (R105). What the decoder accepts it accepts by a row: the word is
the encoding of the instruction it answers, field by field, and Laws' RowMatch gives the row of that encoding. So where no row
selects the word at PC the decode fails, and the step ends in the state after the fetch.
-/
namespace Sys2Proof.Proofs.StepCycle
open Sys2Proof.Machine Sys2Proof.Laws

/-! ### A word put together again from its fields (30_encoding.md R81, R82) -/

section Fields
variable {w : Word} {c : BitVec 4}

theorem encodeA_of_class (hc : (fieldClass w).toNat = c.toNat) : encodeA c (fieldNnn w) = w := by
  apply BitVec.eq_of_toNat_eq
  rw [encodeA_toNat, ← hc, fieldClass_toNat, fieldNnn_toNat]
  omega

theorem encodeXK_of_fields {kk : Byte} (hc : (fieldClass w).toNat = c.toNat) (hk : (fieldKk w).toNat = kk.toNat) :
    encodeXK c (fieldX w) kk = w := by
  apply BitVec.eq_of_toNat_eq
  rw [encodeXK_toNat, ← hc, ← hk, fieldClass_toNat, fieldX_val, fieldKk_toNat]
  omega

theorem encodeXYN_of_fields {n : BitVec 4} (hc : (fieldClass w).toNat = c.toNat) (hn : (fieldN w).val = n.toNat) :
    encodeXYN c (fieldX w) (fieldY w) n = w := by
  apply BitVec.eq_of_toNat_eq
  rw [encodeXYN_toNat, ← hc, ← hn, fieldClass_toNat, fieldX_val, fieldY_val, fieldN_val]
  omega

end Fields

/-! ### The word of a decoded instruction, by class (R83) -/

section Decoded
variable {w : Word} {i : Instr}

theorem encodeWord_of_decodeClass0 (h : decodeClass0 w = .ok i) : encodeWord i = w := by
  unfold decodeClass0 at h
  split_ifs at h with hclear hret
  · cases h; exact hclear.symm
  · cases h; exact hret.symm

theorem encodeWord_of_decodeClass8 (hc : (fieldClass w).toNat = 0x8) (h : decodeClass8 w = .ok i) : encodeWord i = w := by
  unfold decodeClass8 at h
  split at h <;> cases h
  all_goals exact encodeXYN_of_fields hc ‹_›

theorem encodeWord_of_decodeClassE (hc : (fieldClass w).toNat = 0xE) (h : decodeClassE w = .ok i) : encodeWord i = w := by
  unfold decodeClassE at h
  split at h <;> cases h
  all_goals exact encodeXK_of_fields hc ‹_›

theorem encodeWord_of_decodeClassF (hc : (fieldClass w).toNat = 0xF) (h : decodeClassF w = .ok i) : encodeWord i = w := by
  unfold decodeClassF at h
  split at h <;> cases h
  all_goals exact encodeXK_of_fields hc ‹_›

/-- What the decoder accepts is the encoding of the instruction it answers: the classes of decodeWord in their order. -/
theorem encodeWord_of_decodeWord (h : decodeWord w = .ok i) : encodeWord i = w := by
  unfold decodeWord at h
  split at h <;> rename_i hc
  · exact encodeWord_of_decodeClass0 h
  · cases h; exact encodeA_of_class hc
  · cases h; exact encodeA_of_class hc
  · cases h; exact encodeXK_of_fields hc rfl
  · cases h; exact encodeXK_of_fields hc rfl
  · split_ifs at h with hn
    cases h; exact encodeXYN_of_fields hc hn
  · cases h; exact encodeXK_of_fields hc rfl
  · cases h; exact encodeXK_of_fields hc rfl
  · exact encodeWord_of_decodeClass8 hc h
  · split_ifs at h with hn
    cases h; exact encodeXYN_of_fields hc hn
  · cases h; exact encodeA_of_class hc
  · cases h; exact encodeA_of_class hc
  · cases h; exact encodeXK_of_fields hc rfl
  · cases h; exact encodeXYN_of_fields hc rfl
  · exact encodeWord_of_decodeClassE hc h
  · exact encodeWord_of_decodeClassF hc h
  · cases h

/-! ### The row of a decoded word (R83, R84) -/

/-- Laws' RowMatch of every instruction. -/
theorem rowMatch (i : Instr) : RowMatch.Statement i := by
  cases i
  exacts [RowMatch.clearDisplay, RowMatch.ret, RowMatch.jump _, RowMatch.call _, RowMatch.skipEqImm _ _,
    RowMatch.skipNeImm _ _, RowMatch.skipEqReg _ _, RowMatch.loadImm _ _, RowMatch.addImm _ _, RowMatch.move _ _,
    RowMatch.or _ _, RowMatch.and _ _, RowMatch.xor _ _, RowMatch.add _ _, RowMatch.sub _ _, RowMatch.shiftRight _ _,
    RowMatch.subn _ _, RowMatch.shiftLeft _ _, RowMatch.skipNeReg _ _, RowMatch.loadIndex _, RowMatch.jumpIndexed _,
    RowMatch.random _ _, RowMatch.draw _ _ _, RowMatch.skipIfPressed _, RowMatch.skipIfNotPressed _, RowMatch.loadDt _,
    RowMatch.waitForKey _, RowMatch.setDt _, RowMatch.setSt _, RowMatch.addIndex _, RowMatch.loadFontIndex _,
    RowMatch.storeBcd _, RowMatch.storeRegs _, RowMatch.loadRegs _]

/-- A word that decodes is selected by a row of the table. -/
theorem exists_row_of_decodeWord (h : decodeWord w = .ok i) : ∃ r ∈ opcodeTable, r.selects w = true := by
  obtain ⟨r, hrow, -, hsel⟩ := rowMatch i
  rw [encodeWord_of_decodeWord h] at hsel
  exact ⟨r, List.mem_of_getElem? hrow, hsel⟩

/-- A word no row selects does not decode (R85). -/
theorem decodeWord_error_of_no_row (h : ∀ r ∈ opcodeTable, r.selects w = false) : ∃ e, decodeWord w = .error e := by
  cases hd : decodeWord w with
  | error e => exact ⟨e, rfl⟩
  | ok i =>
    obtain ⟨r, hr, hsel⟩ := exists_row_of_decodeWord hd
    simp [h r hr] at hsel

end Decoded

/-! ### The step -/

/-- The step whose word does not decode: InvalidInstruction in the state after the fetch, with no post-check. -/
theorem stepWith_of_decode_error {now : Nat} {rand : Byte} {s : State} {e : DecodeError} (hroom : s.pc.toNat + 2 ≤ 4096)
    (hd : decodeWord (wordAtPc s) = .error e) :
    stepWith now rand s = .fault (.invalidInstruction (afterFetch now rand s)) := by
  simp only [stepWith, fetch_timerPhase, if_pos hroom, executeWord, afterFetch_ir, hd, raise]

/-- Settles O41: the decode fails, so the state left is the one after the fetch, whose parts Laws' afterFetch lemmas give. -/
theorem unrecognisedWordRaisesInvalidInstruction : Obligations.UnrecognisedWordRaisesInvalidInstruction := by
  intro now rand s hroom hrows
  obtain ⟨e, hd⟩ := decodeWord_error_of_no_row hrows
  refine ⟨afterFetch now rand s, stepWith_of_decode_error hroom hd, afterFetch_pc_toNat now rand s hroom, ?_⟩
  simp only [afterFetch_ir, afterFetch_dt, afterFetch_st, afterFetch_tref, afterFetch_v, afterFetch_i, afterFetch_sp,
    afterFetch_stk, afterFetch_key, afterFetch_fb, afterFetch_dirty, afterFetch_mem, and_self]

end Sys2Proof.Proofs.StepCycle
end

section
/-!
PROOF. The loads, moves, bitwise operations and the immediate addition (R140 to R145). Each is one write of one register, so
what it does to the registers is one lemma about such a write; the fixed bits of the encodings are Laws' masks by format.
-/
namespace Sys2Proof.Proofs.Alu
open Sys2Proof.Machine Sys2Proof.Laws

/-! ### What each instruction answers -/

section Answers
variable (x y : Reg) (kk : Byte) (s : State)

theorem exec_loadImm : exec (.loadImm x kk) s = .next (s.setV x kk) := rfl
theorem exec_addImm : exec (.addImm x kk) s = .next (s.setV x (s.getV x + kk)) := rfl
theorem exec_move : exec (.move x y) s = .next (s.setV x (s.getV y)) := rfl
theorem exec_or : exec (.or x y) s = .next (s.setV x (s.getV x ||| s.getV y)) := rfl
theorem exec_and : exec (.and x y) s = .next (s.setV x (s.getV x &&& s.getV y)) := rfl
theorem exec_xor : exec (.xor x y) s = .next (s.setV x (s.getV x ^^^ s.getV y)) := rfl

end Answers

/-- An instruction whose answer is one register write gives that register its value and leaves every other one. -/
theorem exec_writes_register {i : Instr} {s : State} {x : Reg} {b : Byte} (h : exec i s = .next (s.setV x b)) :
    ∃ t, exec i s = .next t ∧ t.getV x = b ∧ ∀ k, k ≠ x → t.getV k = s.getV k :=
  ⟨s.setV x b, h, State.getV_setV_same s x b, fun _ hk => State.getV_setV_ne s b hk⟩

/-! ### The fixed bits of their encodings (R84) -/

theorem encodeWord_loadImm_fixed (x : Reg) (kk : Byte) : encodeWord (.loadImm x kk) &&& 0xF000 = 0x6000 :=
  encodeXK_and_class 0x6 x kk

theorem encodeWord_addImm_fixed (x : Reg) (kk : Byte) : encodeWord (.addImm x kk) &&& 0xF000 = 0x7000 :=
  encodeXK_and_class 0x7 x kk

/-- The four of class 8 differ in the selector n alone. -/
theorem encodeWord_class8_fixed (x y : Reg) :
    encodeWord (.move x y) &&& 0xF00F = 0x8000 ∧ encodeWord (.or x y) &&& 0xF00F = 0x8001 ∧
      encodeWord (.and x y) &&& 0xF00F = 0x8002 ∧ encodeWord (.xor x y) &&& 0xF00F = 0x8003 :=
  ⟨encodeXYN_and_n 0x8 x y 0x0, encodeXYN_and_n 0x8 x y 0x1, encodeXYN_and_n 0x8 x y 0x2, encodeXYN_and_n 0x8 x y 0x3⟩

/-! ### The obligations -/

/-- Settles O9: all five are one register write, and VF is among the registers such a write leaves. -/
theorem loadMoveAndLogicResults : Obligations.LoadMoveAndLogicResults := by
  intro x y kk s
  refine ⟨?_, ?_, ?_, ?_, ?_, encodeWord_loadImm_fixed x kk, encodeWord_class8_fixed x y⟩
  · exact exec_writes_register (exec_loadImm x kk s)
  · exact exec_writes_register (exec_move x y s)
  · exact exec_writes_register (exec_or x y s)
  · exact exec_writes_register (exec_and x y s)
  · exact exec_writes_register (exec_xor x y s)

/-- Settles O10: one register write again, whose value as a number is the wrapped sum of two bytes. -/
theorem addImmWrapsWithoutFlag : Obligations.AddImmWrapsWithoutFlag := by
  intro x kk s
  obtain ⟨t, hexec, hx, hother⟩ := exec_writes_register (exec_addImm x kk s)
  have hsum : (t.getV x).toNat = ((s.getV x).toNat + kk.toNat) % 256 := by
    rw [hx, BitVec.toNat_add]
  have hvf : x ≠ vf → t.getV vf = s.getV vf := fun hne => hother vf hne.symm
  exact ⟨⟨t, hexec, hsum, hvf, hother⟩, encodeWord_addImm_fixed x kk⟩

end Sys2Proof.Proofs.Alu
end

section
/-!
PROOF. The load of I and the decimal store (43_index_memory.md R170, R174). What a block store at I does is said once, for
any block; store-bcd is that store of three bytes whose values are the digits.
-/
namespace Sys2Proof.Proofs.IndexMemory
open Sys2Proof.Machine Sys2Proof.Laws

/-! ### A block store at I (R53, R171) -/

section BlockStore
variable {bytes : List Byte} {s : State}

/-- A block that fits stands at I in order; every other byte, I and the registers are left. -/
theorem storeBlock_of_room (hroom : dataAddress s + bytes.length ≤ 4096) :
    ∃ t, storeBlock bytes s = .next t ∧ t.i = s.i ∧ (∀ k : Reg, t.getV k = s.getV k) ∧
      (∀ k < bytes.length, t.mem.readByte (dataAddress s + k) = bytes.getD k 0) ∧
      ∀ a, a < dataAddress s ∨ dataAddress s + bytes.length ≤ a → t.mem.readByte a = s.mem.readByte a := by
  obtain ⟨-, hstore⟩ | ⟨hover, -⟩ := storeBlock_cases bytes s
  · refine ⟨_, hstore, rfl, fun _ => rfl, fun k hk => ?_, fun a ha => ?_⟩
    · rw [State.setMem_mem, Memory.readByte_writeBytes, dataAddress, if_pos (by omega), Nat.add_sub_cancel_left]
    · rw [dataAddress] at ha
      rw [State.setMem_mem, Memory.readByte_writeBytes, if_neg (by omega)]
  · rw [dataAddress] at hroom
    omega

/-- A block that would run past byte 4095 is not stored at all. -/
theorem storeBlock_of_no_room (hover : 4096 < dataAddress s + bytes.length) :
    storeBlock bytes s = .fault (.outOfBounds s) := by
  obtain ⟨hroom, -⟩ | ⟨-, hfault⟩ := storeBlock_cases bytes s
  · rw [dataAddress] at hover
    omega
  · exact hfault

end BlockStore

/-! ### The three digits of a byte -/

section Digits
variable (b : Byte)

theorem decimalDigits_hundreds : ((decimalDigits b).getD 0 0).toNat = b.toNat / 100 :=
  (BitVec.toNat_ofNat _ _).trans (Nat.mod_eq_of_lt (by have := b.isLt; omega))

theorem decimalDigits_tens : ((decimalDigits b).getD 1 0).toNat = b.toNat / 10 % 10 :=
  (BitVec.toNat_ofNat _ _).trans (Nat.mod_eq_of_lt (by omega))

theorem decimalDigits_ones : ((decimalDigits b).getD 2 0).toNat = b.toNat % 10 :=
  (BitVec.toNat_ofNat _ _).trans (Nat.mod_eq_of_lt (by omega))

end Digits

/-! ### What each instruction answers, and the fixed bits of its encoding (R84) -/

theorem exec_loadIndex (nnn : Address) (s : State) : exec (.loadIndex nnn) s = .next (s.setI (addressOperand nnn)) := rfl

theorem exec_storeBcd (x : Reg) (s : State) : exec (.storeBcd x) s = storeBlock (decimalDigits (s.getV x)) s := rfl

theorem encodeWord_loadIndex_fixed (nnn : Address) : encodeWord (.loadIndex nnn) &&& 0xF000 = 0xA000 :=
  encodeA_and 0xA nnn

theorem encodeWord_storeBcd_fixed (x : Reg) : encodeWord (.storeBcd x) &&& 0xF0FF = 0xF033 :=
  encodeXK_and_kk 0xF x 0x33

/-! ### The obligations -/

/-- Settles O24: the block store of the three digits, either way; their values as numbers put Vx together again. -/
theorem storeBcdWritesDecimalDigits : Obligations.StoreBcdWritesDecimalDigits := by
  intro x s
  have hlen := length_decimalDigits (s.getV x)
  refine ⟨fun hroom => ?_, fun hover => ?_, encodeWord_storeBcd_fixed x⟩
  · obtain ⟨t, hstore, hi, hv, hblock, hother⟩ := storeBlock_of_room (hlen.symm ▸ hroom)
    have hhundreds : (t.mem.readByte (dataAddress s)).toNat = (s.getV x).toNat / 100 := by
      rw [← decimalDigits_hundreds, ← hblock 0 (by omega), Nat.add_zero]
    have htens : (t.mem.readByte (dataAddress s + 1)).toNat = (s.getV x).toNat / 10 % 10 := by
      rw [← decimalDigits_tens, ← hblock 1 (by omega)]
    have hones : (t.mem.readByte (dataAddress s + 2)).toNat = (s.getV x).toNat % 10 := by
      rw [← decimalDigits_ones, ← hblock 2 (by omega)]
    have hbyte : (s.getV x).toNat < 256 := (s.getV x).isLt
    refine ⟨t, hstore, hi, hv, ?_, ?_, ?_, ?_, hother⟩
    · omega
    · omega
    · omega
    · omega
  · exact storeBlock_of_no_room (hlen.symm ▸ hover)

/-- Settles O22: I is the operand zero-extended, and an operand has 12 bits. -/
theorem loadIndexSetsI : Obligations.LoadIndexSetsI := by
  intro nnn s
  have hi : (s.setI (addressOperand nnn)).i.toNat = nnn.toNat := addressOperand_toNat nnn
  have hbits : nnn.toNat < 4096 := nnn.isLt
  refine ⟨⟨_, exec_loadIndex nnn s, hi, ?_, State.getV_setI s _⟩, encodeWord_loadIndex_fixed nnn⟩
  omega

end Sys2Proof.Proofs.IndexMemory
end

section
/-!
PROOF. What clear-display does (44_display.md R190, R193): its answer is a write of the clear framebuffer, whose cells the
compositor's laws give.
-/
namespace Sys2Proof.Proofs.Display
open Sys2Proof.Machine

theorem exec_clearDisplay (s : State) : exec .clearDisplay s = .next (s.setFb Framebuffer.clear) := rfl

/-- Settles O28: the next state holds the clear framebuffer, every cell of which is 0. -/
theorem clearDisplayZeroesEveryCell : Obligations.ClearDisplayZeroesEveryCell := by
  intro s
  refine ⟨s.setFb Framebuffer.clear, exec_clearDisplay s, fun cx cy => ?_⟩
  rw [State.setFb_fb, Framebuffer.cell_clear]

end Sys2Proof.Proofs.Display
end

section
/-!
PROOF. The key latch and DIRTY across steps and transactions (46_host_interface.md R224, R225, R228; 10_state.md R32). What an
execute phase does to the two is said once, for every instruction and whether it completes or raises; the step and the two
obligations follow from it. That an instruction ignores the latch is that its execute phase commutes with replacing the
latch; the three that read it are told apart by one state with every key up and the same state with every key down.
-/
namespace Sys2Proof.Proofs.HostInterface
open Sys2Proof.Machine

/-! ### One cell of the key latch (R224, R225) -/

section KeyCell
variable (s : State) (k j : Fin 16) (d d' : Bool)

theorem getElem_key_setKeyCell : (s.setKeyCell k d).key[j] = if j = k then d else s.key[j] := by
  by_cases h : j = k
  · subst h
    simp
  · have hval : k.val ≠ j.val := fun e => h (Fin.ext e.symm)
    simp [Vector.getElem_set_ne, h, hval]

/-- A level written over itself changes nothing. -/
theorem setKeyCell_getElem_key : s.setKeyCell k s.key[k] = s := by
  rw [State.setKeyCell, Fin.getElem_fin, Vector.set_getElem_self]

/-- Of two writes of one key only the last shows: the latch counts nothing. -/
theorem setKeyCell_setKeyCell : (s.setKeyCell k d).setKeyCell k d' = s.setKeyCell k d' := by
  simp only [State.setKeyCell, Vector.set_set]

end KeyCell

/-! ### Every combination of keys (R32) -/

/-- The transaction that brings one key to its level in a latch. -/
def keyTransactionTo (key : Vector Bool 16) (k : Fin 16) : Transaction := if key[k] then .setKey k else .clearKey k

theorem isKeyTransaction_keyTransactionTo (key : Vector Bool 16) (k : Fin 16) :
    isKeyTransaction (keyTransactionTo key k) = true := by
  rw [keyTransactionTo]
  split <;> rfl

theorem transact_keyTransactionTo (key : Vector Bool 16) (k : Fin 16) (s : State) :
    (transact (keyTransactionTo key k) s).2 = s.setKeyCell k key[k] := by
  cases h : key[k] <;> rw [keyTransactionTo, h] <;> rfl

/-- The keys brought to their levels have them, the other keys have theirs from before. -/
theorem getElem_key_transactAll (key : Vector Bool 16) (ks : List (Fin 16)) (s : State) (j : Fin 16) :
    (transactAll (ks.map (keyTransactionTo key)) s).key[j] = if j ∈ ks then key[j] else s.key[j] := by
  induction ks generalizing s with
  | nil => simp [transactAll]
  | cons k ks ih =>
    rw [List.map_cons, transactAll, ih, transact_keyTransactionTo, getElem_key_setKeyCell]
    by_cases hks : j ∈ ks
    · simp [hks]
    · by_cases hk : j = k
      · simp [hk]
      · simp [hks, hk]

/-- One transaction for each key leads from any latch to any other. -/
theorem exists_keyTransactions (s : State) (key : Vector Bool 16) :
    ∃ keys : List Transaction, keys.all isKeyTransaction = true ∧ transactAll keys s = s.setKeys key := by
  have hall : ((List.finRange 16).map (keyTransactionTo key)).all isKeyTransaction = true := by
    simp [isKeyTransaction_keyTransactionTo]
  refine ⟨_, hall, ?_⟩
  rw [transactAll_keys hall]
  congr 1
  ext n hn
  exact (getElem_key_transactAll key _ s ⟨n, hn⟩).trans (if_pos (List.mem_finRange _))

/-! ### What a step leaves of KEY and DIRTY -/

/-- The second state has the key latch of the first, and its DIRTY unless it is raised. -/
structure KeepsKeyRaisesDirty (s t : State) : Prop where
  key : t.key = s.key
  dirty : s.dirty = true → t.dirty = true

/-- The state an outcome leaves, completed or failed, keeps the latch and does not clear DIRTY. -/
def OutcomeKeeps (s : State) : Host.Outcome State Fault Refusal → Prop
  | .next t => KeepsKeyRaisesDirty s t
  | .fault f => KeepsKeyRaisesDirty s (stateLeft f)
  | .refused _ => True

section Keeps
variable {s t u : State}

theorem KeepsKeyRaisesDirty.refl : KeepsKeyRaisesDirty s s := ⟨rfl, id⟩

theorem KeepsKeyRaisesDirty.trans (hst : KeepsKeyRaisesDirty s t) (htu : KeepsKeyRaisesDirty t u) :
    KeepsKeyRaisesDirty s u :=
  ⟨htu.key.trans hst.key, fun hd => htu.dirty (hst.dirty hd)⟩

theorem OutcomeKeeps.of_next {o : Host.Outcome State Fault Refusal} (ho : OutcomeKeeps s o) (h : o = .next t) :
    KeepsKeyRaisesDirty s t := by
  subst h
  exact ho

theorem OutcomeKeeps.of_fault {o : Host.Outcome State Fault Refusal} {f : Fault} (ho : OutcomeKeeps s o)
    (h : o = .fault f) : KeepsKeyRaisesDirty s (stateLeft f) := by
  subst h
  exact ho

theorem execCall_keeps (nnn : Address) : OutcomeKeeps s (execCall nnn s) := by
  obtain ⟨_, h⟩ | ⟨-, h⟩ | ⟨-, h⟩ := pushThen_cases s.pc (fun t => t.setPc (addressOperand nnn)) s <;> rw [execCall, h]
  · exact ⟨rfl, id⟩
  · exact .refl
  · exact .refl

theorem execRet_keeps : OutcomeKeeps s (execRet s) := by
  obtain ⟨-, h⟩ | ⟨_, -, h⟩ | ⟨-, h⟩ := popThen_cases (fun w t => t.setPc w) s <;> rw [execRet, h]
  · exact .refl
  · exact ⟨rfl, id⟩
  · exact .refl

theorem storeBlock_keeps (bytes : List Byte) : OutcomeKeeps s (storeBlock bytes s) := by
  obtain ⟨-, h⟩ | ⟨-, h⟩ := storeBlock_cases bytes s <;> rw [h]
  · exact ⟨rfl, id⟩
  · exact .refl

theorem execLoadRegs_keeps (x : Reg) : OutcomeKeeps s (execLoadRegs x s) := by
  obtain ⟨-, h⟩ | ⟨-, h⟩ := execLoadRegs_cases x s <;> rw [h]
  · exact ⟨rfl, id⟩
  · exact .refl

/-- A sprite drawn sets DIRTY, which is why DIRTY is not simply kept (R194). -/
theorem execDraw_keeps (x y : Reg) (n : RowCount) : OutcomeKeeps s (execDraw x y n s) := by
  obtain ⟨-, h⟩ | ⟨-, h⟩ := execDraw_cases x y n s <;> rw [h]
  · exact ⟨rfl, fun _ => rfl⟩
  · exact .refl

theorem skipOnKey_keeps (x : Reg) (c : Bool → Bool) : OutcomeKeeps s (skipOnKey x c s) := by
  obtain ⟨_, h⟩ | ⟨-, h⟩ := skipOnKey_cases x c s <;> rw [h]
  · exact ⟨rfl, id⟩
  · exact .refl

theorem execWaitForKey_keeps (x : Reg) : OutcomeKeeps s (execWaitForKey x s) := by
  obtain ⟨-, h⟩ | ⟨_, -, -, h⟩ := execWaitForKey_cases x s <;> rw [h]
  · exact ⟨rfl, id⟩
  · exact ⟨rfl, id⟩

end Keeps

/-- No execute phase writes the latch or clears DIRTY: those without a shared operation of their own answer named updates of
other fields. -/
theorem exec_keeps (i : Instr) (s : State) : OutcomeKeeps s (exec i s) := by
  cases i with
  | ret => exact execRet_keeps
  | call nnn => exact execCall_keeps nnn
  | draw x y n => exact execDraw_keeps x y n
  | skipIfPressed x => exact skipOnKey_keeps x fun down => down
  | skipIfNotPressed x => exact skipOnKey_keeps x fun down => !down
  | waitForKey x => exact execWaitForKey_keeps x
  | storeBcd x => exact storeBlock_keeps _
  | storeRegs x => exact storeBlock_keeps _
  | loadRegs x => exact execLoadRegs_keeps x
  | _ => exact KeepsKeyRaisesDirty.mk rfl id

/-- No step, completed or failed, writes the latch or clears DIRTY (R32, R228): the phases before the execute phase touch
neither. -/
theorem stepWith_keeps (now : Nat) (rand : Byte) (s : State) : OutcomeKeeps s (stepWith now rand s) := by
  have hfetch : KeepsKeyRaisesDirty s (afterFetch now rand s) :=
    ⟨afterFetch_key now rand s, (afterFetch_dirty now rand s).trans⟩
  cases h : stepWith now rand s with
  | next t =>
    obtain ⟨-, i, -, hexec, -⟩ := stepWith_next h
    exact hfetch.trans ((exec_keeps i _).of_next hexec)
  | fault f =>
    obtain ⟨-, rfl⟩ | ⟨-, ⟨_, -, rfl⟩ | ⟨i, -, hexec | ⟨t, hexec, -, rfl⟩⟩⟩ := stepWith_fault h
    · exact ⟨rfl, id⟩
    · exact hfetch
    · exact hfetch.trans ((exec_keeps i _).of_fault hexec)
    · exact hfetch.trans ((exec_keeps i _).of_next hexec)
  | refused r => trivial

/-! ### What a transaction leaves of KEY and DIRTY -/

/-- A load writes memory alone (R226). -/
theorem loadRom_keeps (bytes : List Byte) (s : State) : KeepsKeyRaisesDirty s (loadRom bytes s).2 := by
  obtain ⟨-, h⟩ | ⟨-, h⟩ := loadRom_cases bytes s <;> rw [h]
  · exact ⟨rfl, id⟩
  · exact .refl

theorem transact_key_eq {a : Transaction} {s : State} (hkey : isKeyTransaction a = false)
    (hreset : ∀ now, a ≠ .reset now) : (transact a s).2.key = s.key := by
  cases a with
  | reset now => exact absurd rfl (hreset now)
  | loadRom bytes => exact (loadRom_keeps bytes s).key
  | setKey k => cases hkey
  | clearKey k => cases hkey
  | isDrawPending => rfl
  | consumeFramebuffer => rfl
  | snapshot => rfl

theorem transact_dirty {a : Transaction} {s : State} (hdirty : s.dirty = true) (hconsume : a ≠ .consumeFramebuffer)
    (hreset : ∀ now, a ≠ .reset now) : (transact a s).2.dirty = true := by
  cases a with
  | reset now => exact absurd rfl (hreset now)
  | loadRom bytes => exact (loadRom_keeps bytes s).dirty hdirty
  | consumeFramebuffer => exact absurd rfl hconsume
  | setKey k => exact hdirty
  | clearKey k => exact hdirty
  | isDrawPending => exact hdirty
  | snapshot => exact hdirty

/-! ### The instructions that ignore the latch (R32) -/

/-- The outcome is the same whatever the latch holds, the latch itself carried along. -/
def IgnoresKeys (f : State → Host.Outcome State Fault Refusal) : Prop :=
  ∀ (s : State) (key : Vector Bool 16), f (s.setKeys key) = mapOutcome (fun t => t.setKeys key) (f s)

theorem ignoresKeys_execCall (nnn : Address) : IgnoresKeys (execCall nnn) := by
  intro s key
  by_cases hroom : s.sp.toNat < Config.stackDepth
  · simp only [execCall, pushThen, State.setKeys_sp, hroom, ↓reduceDIte]
    rfl
  · by_cases hfull : s.sp.toNat = Config.stackDepth
    · simp only [execCall, pushThen, State.setKeys_sp, hfull, ↓reduceIte]
      rfl
    · simp only [execCall, pushThen, State.setKeys_sp, hroom, hfull, ↓reduceDIte, ↓reduceIte]
      rfl

theorem ignoresKeys_execRet : IgnoresKeys execRet := by
  intro s key
  by_cases hempty : s.sp = 0
  · simp only [execRet, popThen, State.setKeys_sp, hempty, ↓reduceIte]
    rfl
  · by_cases hentry : s.sp.toNat - 1 < Config.stackDepth
    · simp only [execRet, popThen, State.setKeys_sp, hempty, hentry, ↓reduceDIte, ↓reduceIte]
      rfl
    · simp only [execRet, popThen, State.setKeys_sp, hempty, hentry, ↓reduceDIte, ↓reduceIte]
      rfl

theorem ignoresKeys_storeBlock (bytes : List Byte) : IgnoresKeys (storeBlock bytes) := by
  intro s key
  simp only [storeBlock, dataAddress, State.setKeys_mem, State.setKeys_i]
  split <;> rfl

theorem ignoresKeys_execLoadRegs (x : Reg) : IgnoresKeys (execLoadRegs x) := by
  intro s key
  simp only [execLoadRegs, dataAddress, State.setKeys_mem, State.setKeys_i]
  split <;> rfl

theorem ignoresKeys_execDraw (x y : Reg) (n : RowCount) : IgnoresKeys (execDraw x y n) := by
  intro s key
  simp only [execDraw, dataAddress, State.setKeys_mem, State.setKeys_i]
  split <;> rfl

/-- Every execute phase but those of the two key skips and `wait-for-key`. -/
theorem ignoresKeys_exec {i : Instr} (hpressed : ∀ x, i ≠ .skipIfPressed x) (hreleased : ∀ x, i ≠ .skipIfNotPressed x)
    (hwait : ∀ x, i ≠ .waitForKey x) : IgnoresKeys (exec i) := by
  cases i with
  | skipIfPressed x => exact absurd rfl (hpressed x)
  | skipIfNotPressed x => exact absurd rfl (hreleased x)
  | waitForKey x => exact absurd rfl (hwait x)
  | ret => exact ignoresKeys_execRet
  | call nnn => exact ignoresKeys_execCall nnn
  | draw x y n => exact ignoresKeys_execDraw x y n
  | storeBcd x => exact fun s => ignoresKeys_storeBlock (decimalDigits (s.getV x)) s
  | storeRegs x => exact fun s => ignoresKeys_storeBlock (registersUpTo s x) s
  | loadRegs x => exact ignoresKeys_execLoadRegs x
  | _ => exact fun _ _ => rfl

/-! ### The instructions that read it (R32) -/

/-- Every key down. -/
def allKeysDown : Vector Bool 16 := Vector.replicate 16 true

/-- PC after a completed execute phase. -/
def nextPc : Host.Outcome State Fault Refusal → Option Word
  | .next t => some t.pc
  | .fault _ => none
  | .refused _ => none

theorem nextPc_mapOutcome_setKeys (key : Vector Bool 16) (o : Host.Outcome State Fault Refusal) :
    nextPc (mapOutcome (fun t => t.setKeys key) o) = nextPc o := by
  cases o <;> rfl

/-- At reset, where no key is down, pressing them all changes where each of the three goes on. -/
theorem nextPc_keyReaders_ne (x : Reg) : ∀ i ∈ [Instr.skipIfPressed x, .skipIfNotPressed x, .waitForKey x],
    nextPc (exec i (State.reset.setKeys allKeysDown)) ≠ nextPc (exec i State.reset) := by
  revert x
  decide

/-- An instruction ignores the latch exactly when it is none of the three. -/
theorem ignoresKeys_exec_iff (i : Instr) :
    IgnoresKeys (exec i) ↔ ((∀ x, i ≠ .skipIfPressed x) ∧ (∀ x, i ≠ .skipIfNotPressed x) ∧ ∀ x, i ≠ .waitForKey x) := by
  constructor
  · intro hignores
    have hreader (x : Reg) : i ∉ [Instr.skipIfPressed x, .skipIfNotPressed x, .waitForKey x] := fun hi =>
      nextPc_keyReaders_ne x i hi (by rw [hignores, nextPc_mapOutcome_setKeys])
    refine ⟨fun x e => hreader x ?_, fun x e => hreader x ?_, fun x e => hreader x ?_⟩ <;> simp [e]
  · rintro ⟨hpressed, hreleased, hwait⟩
    exact ignoresKeys_exec hpressed hreleased hwait

/-! ### The obligations -/

/-- Settles O55: one cell of the latch for the host's two writes, a case split over the instructions for the steps, and one
state that tells the three readers apart from the rest. -/
theorem keysAreLevelsWrittenByTheHostOnly : Obligations.KeysAreLevelsWrittenByTheHostOnly := by
  refine ⟨fun k j s => ?_, fun k s => ⟨rfl, rfl, fun hdown => ?_, fun hup => ?_⟩, fun now rand s => ?_, fun a s => ?_,
    exists_keyTransactions, ignoresKeys_exec_iff⟩
  · exact ⟨getElem_key_setKeyCell s k j true, getElem_key_setKeyCell s k j false⟩
  · rw [setKey, ← hdown, setKeyCell_getElem_key]
  · rw [clearKey, setKey, setKeyCell_setKeyCell, ← hup, setKeyCell_getElem_key]
  · have hstep := stepWith_keeps now rand s
    exact ⟨fun t h => (hstep.of_next h).key, fun f h => (hstep.of_fault h).key⟩
  · exact transact_key_eq

/-- Settles O56: the same case split over the instructions, read for DIRTY. -/
theorem dirtyIsClearedByConsumeAndResetOnly : Obligations.DirtyIsClearedByConsumeAndResetOnly := by
  refine ⟨fun s => ⟨rfl, rfl, rfl⟩, fun now rand s hdirty => ?_, fun a s => transact_dirty⟩
  have hstep := stepWith_keeps now rand s
  exact ⟨fun t h => (hstep.of_next h).dirty hdirty, fun f h => (hstep.of_fault h).dirty hdirty⟩

end Sys2Proof.Proofs.HostInterface
end

section
/-!
PROOF. Decoder, encoder and opcode table agree (30_encoding.md R80 to R86). Decoding an encoding is a case split over the
instructions with Laws' fields of encoded words; encoding a decoding stands in StepCycle above. Against the table, what a row
selects and what the decoder rejects are both said as numbers, and two rows never select one word because their values
differ on bits that both masks keep.
-/
namespace Sys2Proof.Proofs.Encoding
open Sys2Proof.Machine Sys2Proof.Laws Sys2Proof.Proofs.StepCycle

/-! ### Decoding an encoded word -/

/-- Each class of the decoder finds in an encoded word the fields the encoder put there. -/
theorem decodeWord_encodeWord (i : Instr) : decodeWord (encodeWord i) = .ok i := by
  cases i with
  | clearDisplay => rfl
  | ret => rfl
  | jump _ | call _ | loadIndex _ | jumpIndexed _ => simp [encodeWord, decodeWord]
  | skipEqImm _ _ | skipNeImm _ _ | loadImm _ _ | addImm _ _ | random _ _ => simp [encodeWord, decodeWord]
  | skipEqReg _ _ | skipNeReg _ _ | draw _ _ _ => simp [encodeWord, decodeWord]
  | move _ _ | or _ _ | and _ _ | xor _ _ | add _ _ | sub _ _ | shiftRight _ _ | subn _ _ | shiftLeft _ _ =>
    simp [encodeWord, decodeWord, decodeClass8]
  | skipIfPressed _ | skipIfNotPressed _ => simp [encodeWord, decodeWord, decodeClassE]
  | loadDt _ | waitForKey _ | setDt _ | setSt _ | addIndex _ | loadFontIndex _ | storeBcd _ | storeRegs _ | loadRegs _ =>
    simp [encodeWord, decodeWord, decodeClassF]

/-! ### The rejected words as numbers (R85) -/

section Rejected
variable {w : Word}

theorem decodeClass0_eq_error : decodeClass0 w = .error (.unrecognised w) ↔ w ≠ 0x00E0 ∧ w ≠ 0x00EE := by
  unfold decodeClass0
  split_ifs with hclear hret
  · simp [hclear]
  · simp [hret]
  · exact iff_of_true rfl ⟨hclear, hret⟩

theorem decodeClass8_eq_error : decodeClass8 w = .error (.unrecognised w) ↔
    w.toNat % 16 ∈ [0x8, 0x9, 0xA, 0xB, 0xC, 0xD, 0xF] := by
  unfold decodeClass8
  rw [fieldN_val]
  split
  case h_10 => simp only [imp_false] at *; simp; omega
  all_goals simp; omega

theorem decodeClassE_eq_error : decodeClassE w = .error (.unrecognised w) ↔ w.toNat % 256 ∉ [0x9E, 0xA1] := by
  unfold decodeClassE
  rw [fieldKk_toNat]
  split <;> simp_all

theorem decodeClassF_eq_error : decodeClassF w = .error (.unrecognised w) ↔
    w.toNat % 256 ∉ [0x07, 0x0A, 0x15, 0x18, 0x1E, 0x29, 0x33, 0x55, 0x65] := by
  unfold decodeClassF
  rw [fieldKk_toNat]
  split <;> simp_all

/-- R85's table, class by class. -/
theorem decodeWord_eq_error : decodeWord w = .error (.unrecognised w) ↔
    (w.toNat / 4096 = 0x0 ∧ w ≠ 0x00E0 ∧ w ≠ 0x00EE) ∨
    (w.toNat / 4096 = 0x5 ∧ w.toNat % 16 ≠ 0) ∨
    (w.toNat / 4096 = 0x8 ∧ w.toNat % 16 ∈ [0x8, 0x9, 0xA, 0xB, 0xC, 0xD, 0xF]) ∨
    (w.toNat / 4096 = 0x9 ∧ w.toNat % 16 ≠ 0) ∨
    (w.toNat / 4096 = 0xE ∧ w.toNat % 256 ∉ [0x9E, 0xA1]) ∨
    (w.toNat / 4096 = 0xF ∧ w.toNat % 256 ∉ [0x07, 0x0A, 0x15, 0x18, 0x1E, 0x29, 0x33, 0x55, 0x65]) := by
  unfold decodeWord
  rw [fieldClass_toNat, fieldN_val]
  split <;> rename_i hc
  case h_1 => simp only [hc, decodeClass0_eq_error]; simp
  case h_6 => split <;> simp_all
  case h_9 => simp only [hc, decodeClass8_eq_error]; simp
  case h_10 => split <;> simp_all
  case h_15 => simp only [hc, decodeClassE_eq_error]; simp
  case h_16 => simp only [hc, decodeClassF_eq_error]; simp
  case h_17 => have := w.isLt; simp only [imp_false] at *; omega
  all_goals simp [hc]

/-- The only reason for which a word is rejected. -/
theorem eq_unrecognised_of_decodeWord {e : DecodeError} (h : decodeWord w = .error e) : e = .unrecognised w := by
  simp only [decodeWord, decodeClass0, decodeClass8, decodeClassE, decodeClassF] at h
  repeat' split at h
  all_goals cases h
  all_goals rfl

end Rejected

/-! ### Rows of the opcode table (R83, R84) -/

section Rows
variable {w : Word} {r q : OpcodeRow}

theorem selects_iff : r.selects w = true ↔ w &&& r.mask = r.value := by
  simp [OpcodeRow.selects]

/-- The masked word of each of the table's four masks as a number: a word is put together again from its fields and Laws'
masks of encoded words apply. -/
theorem toNat_and_class (w : Word) : (w &&& 0xF000).toNat = w.toNat / 4096 * 4096 := by
  have h := encodeA_and (fieldClass w) (fieldNnn w)
  rw [encodeA_of_class rfl] at h
  rw [h]
  simp [encodeA_toNat, fieldClass_toNat]

theorem toNat_and_class_n (w : Word) : (w &&& 0xF00F).toNat = w.toNat / 4096 * 4096 + w.toNat % 16 := by
  have h := encodeXYN_and_n (fieldClass w) (fieldX w) (fieldY w) (BitVec.ofFin (w := 4) (fieldN w))
  rw [encodeXYN_of_fields (n := BitVec.ofFin (w := 4) (fieldN w)) rfl rfl] at h
  rw [h]
  simp [encodeXYN_toNat, fieldClass_toNat, fieldN_val]

theorem toNat_and_class_kk (w : Word) : (w &&& 0xF0FF).toNat = w.toNat / 4096 * 4096 + w.toNat % 256 := by
  have h := encodeXK_and_kk (fieldClass w) (fieldX w) (fieldKk w)
  rw [encodeXK_of_fields rfl rfl] at h
  rw [h]
  simp [encodeXK_toNat, fieldClass_toNat, fieldKk_toNat]

theorem toNat_and_ones (w : Word) : (w &&& 0xFFFF).toNat = w.toNat :=
  congrArg BitVec.toNat (BitVec.and_allOnes (x := w))

/-- No row selects a rejected word: the row's class, `n` and `kk` are none of R85's table. -/
theorem selects_eq_false_of_decodeWord {e : DecodeError} (h : decodeWord w = .error e) :
    ∀ r ∈ opcodeTable, r.selects w = false := by
  have hw := decodeWord_eq_error.mp (eq_unrecognised_of_decodeWord h ▸ h)
  have hrow (r : OpcodeRow) : r.selects w = false ↔ (w &&& r.mask).toNat ≠ r.value.toNat := by
    rw [← Bool.not_eq_true, selects_iff, ← BitVec.toNat_inj]
  simp only [hrow, opcodeTable, opcodeRowsControl, opcodeRowsClass8, opcodeRowsUpper, opcodeRowsKeysTimers,
    List.cons_append, List.nil_append, List.forall_mem_cons, toNat_and_class, toNat_and_class_n, toNat_and_class_kk,
    toNat_and_ones]
  simp only [List.mem_cons, List.not_mem_nil, or_false, ne_eq, ← BitVec.toNat_inj, BitVec.reduceToNat, IsEmpty.forall_iff,
    implies_true, and_true] at hw ⊢
  and_intros <;> omega

/-- Two rows that select one word agree on the bits both masks keep. -/
theorem values_agree_of_selects (hr : r.selects w = true) (hq : q.selects w = true) :
    r.value &&& q.mask = q.value &&& r.mask := by
  rw [← selects_iff.mp hr, ← selects_iff.mp hq, BitVec.and_assoc, BitVec.and_assoc, BitVec.and_comm r.mask]

/-- Any two rows of the table differ there. -/
theorem opcodeTable_pairwise : opcodeTable.Pairwise (fun r q => r.value &&& q.mask ≠ q.value &&& r.mask) := by decide

/-- A row that selects a word is the only one. -/
theorem filter_selects_eq_singleton (hr : r ∈ opcodeTable) (hsel : r.selects w = true) :
    opcodeTable.filter (fun q => q.selects w) = [r] := by
  have hpair := opcodeTable_pairwise.filter (fun q => q.selects w)
  have hmem : r ∈ opcodeTable.filter (fun q => q.selects w) := List.mem_filter.mpr ⟨hr, hsel⟩
  have hall : ∀ q ∈ opcodeTable.filter (fun q => q.selects w), q.selects w = true := fun q hq => (List.mem_filter.mp hq).2
  generalize opcodeTable.filter (fun q => q.selects w) = rows at *
  match rows with
  | [] => cases hmem
  | [q] => rw [List.mem_singleton.mp hmem]
  | q :: q' :: rows =>
    have hne := (List.pairwise_cons.mp hpair).1 q' (by simp)
    exact absurd (values_agree_of_selects (hall q (by simp)) (hall q' (by simp))) hne

end Rows

/-! ### The obligations -/

/-- Settles O2: the bytes of a word decode as the word, and an encoded word decodes to its instruction. -/
theorem decodeOfEncodeIsTheInstruction : Obligations.DecodeOfEncodeIsTheInstruction := by
  intro i rest
  rw [encode, decode_bytesOfWord, decodeWord_encodeWord]
  rfl

/-- Settles O3: the word put together again from its fields, class by class. -/
theorem encodeOfDecodeIsTheWord : Obligations.EncodeOfDecodeIsTheWord :=
  fun _ _ => encodeWord_of_decodeWord

/-- Settles O4: Laws' RowMatch gives a row of a decoded word, and no second row selects it. -/
theorem decodeFollowsTheOneMatchingRow : Obligations.DecodeFollowsTheOneMatchingRow := by
  refine fun w => ⟨fun i hok => ?_, fun e herror => ?_⟩
  · obtain ⟨r, hrow, hname, hsel⟩ := rowMatch i
    rw [encodeWord_of_decodeWord hok] at hsel
    rw [filter_selects_eq_singleton (List.mem_of_getElem? hrow) hsel, List.map_singleton, hname]
  · rw [List.filter_eq_nil_iff]
    intro r hr
    simp [selects_eq_false_of_decodeWord herror r hr]

/-- Settles O5: the classes of the decoder with their rejections as numbers. -/
theorem unrecognisedWordsAreThoseListed : Obligations.UnrecognisedWordsAreThoseListed :=
  fun _ => decodeWord_eq_error

/-- Settles O1: the ten words are those their instructions encode to, and the three rejected ones lie in R85's table. -/
theorem decodeReadsSpecWords : Obligations.DecodeReadsSpecWords := by
  refine ⟨decodeWord_encodeWord .clearDisplay, decodeWord_encodeWord .ret, decodeWord_encodeWord (.jump 0x2A0),
    decodeWord_encodeWord (.loadImm 3 0x7F), decodeWord_encodeWord (.add 1 2), decodeWord_encodeWord (.shiftRight 4 0),
    decodeWord_encodeWord (.draw 0 1 5), decodeWord_encodeWord (.storeRegs 5), decodeWord_encodeWord (.skipIfPressed 5),
    decodeWord_encodeWord (.addIndex 2), ?_, ?_, ?_⟩
  all_goals exact decodeWord_eq_error.mpr (by decide)

end Sys2Proof.Proofs.Encoding
end

section
/-!
PROOF. What an execute phase can answer, said once for every instruction: a next state that agrees with the state before
outside what 10_state.md R42 lets the instruction write, or one of the errors of 60_exceptions.md R240 with the state as it
was, and never a refusal. The frames of the five families are read off from it. A frame is put together update by update.
-/
namespace Sys2Proof.Machine.UnchangedOutside

/-! ### Frames, one named update at a time -/

section Updates
variable {p : Parts} {s t u : State}

protected theorem refl (p : Parts) (s : State) : UnchangedOutside p s s := by simp [UnchangedOutside]

protected theorem trans (hst : UnchangedOutside p s t) (htu : UnchangedOutside p t u) : UnchangedOutside p s u := by
  obtain ⟨v, mem, stk, i, pc, sp, dt, st, fb, dirty, warn, tref, key, ir, now, rand, stepNo⟩ := hst
  obtain ⟨v', mem', stk', i', pc', sp', dt', st', fb', dirty', warn', tref', key', ir', now', rand', stepNo'⟩ := htu
  exact ⟨fun k h => (v' k h).trans (v k h), fun a h => (mem' a h).trans (mem a h), fun j h => (stk' j h).trans (stk j h),
    fun h => (i' h).trans (i h), fun h => (pc' h).trans (pc h), fun h => (sp' h).trans (sp h),
    fun h => (dt' h).trans (dt h), fun h => (st' h).trans (st h), fun h => (fb' h).trans (fb h),
    fun h => (dirty' h).trans (dirty h), fun h => (warn' h).trans (warn h), tref'.trans tref, key'.trans key,
    ir'.trans ir, now'.trans now, rand'.trans rand, stepNo'.trans stepNo⟩

theorem setV {x : Reg} (h : UnchangedOutside p s t) (hp : p.v x = true) (b : Byte) :
    UnchangedOutside p s (t.setV x b) := by
  have hne (k : Reg) (hk : p.v k = false) : k ≠ x := by
    rintro rfl
    simp [hp] at hk
  refine h.trans ?_
  simp +contextual [UnchangedOutside, State.getV_setV, hne]

theorem setRegisters {v : Vector Byte 16} (h : UnchangedOutside p s t) (hp : ∀ k : Reg, p.v k = false → v[k] = t.getV k) :
    UnchangedOutside p s (t.setRegisters v) := by
  refine h.trans ?_
  simpa [UnchangedOutside] using hp

theorem setMem {m : Memory} (h : UnchangedOutside p s t) (hp : ∀ a, p.mem a = false → m.readByte a = t.mem.readByte a) :
    UnchangedOutside p s (t.setMem m) := by
  refine h.trans ?_
  simpa [UnchangedOutside] using hp

theorem setStk {j : Fin 16} (h : UnchangedOutside p s t) (hp : p.stk j = true) (w : Word) :
    UnchangedOutside p s (t.setStk j w) := by
  have hne (k : Fin 16) (hk : p.stk k = false) : j.val ≠ k.val := fun e => by
    simp [← Fin.ext e, hp] at hk
  refine h.trans ?_
  simp +contextual [UnchangedOutside, Vector.getElem_set_ne, hne]

theorem setI (h : UnchangedOutside p s t) (hp : p.i = true) (w : Word) : UnchangedOutside p s (t.setI w) :=
  h.trans (by simp [UnchangedOutside, hp])

theorem setPc (h : UnchangedOutside p s t) (hp : p.pc = true) (w : Word) : UnchangedOutside p s (t.setPc w) :=
  h.trans (by simp [UnchangedOutside, hp])

theorem setSp (h : UnchangedOutside p s t) (hp : p.sp = true) (b : Byte) : UnchangedOutside p s (t.setSp b) :=
  h.trans (by simp [UnchangedOutside, hp])

theorem setDt (h : UnchangedOutside p s t) (hp : p.dt = true) (b : Byte) : UnchangedOutside p s (t.setDt b) :=
  h.trans (by simp [UnchangedOutside, hp])

theorem setSt (h : UnchangedOutside p s t) (hp : p.st = true) (b : Byte) : UnchangedOutside p s (t.setSt b) :=
  h.trans (by simp [UnchangedOutside, hp])

theorem setFb (h : UnchangedOutside p s t) (hp : p.fb = true) (f : Framebuffer) : UnchangedOutside p s (t.setFb f) :=
  h.trans (by simp [UnchangedOutside, hp])

theorem setDirty (h : UnchangedOutside p s t) (hp : p.dirty = true) (d : Bool) : UnchangedOutside p s (t.setDirty d) :=
  h.trans (by simp [UnchangedOutside, hp])

theorem setWarn (h : UnchangedOutside p s t) (hp : p.warn = true) (d : Bool) : UnchangedOutside p s (t.setWarn d) :=
  h.trans (by simp [UnchangedOutside, hp])

/-! ### Fields a frame keeps -/

theorem dt_eq (h : UnchangedOutside p s t) (hp : p.dt = false) : t.dt = s.dt := by
  obtain ⟨-, -, -, -, -, -, hdt, -⟩ := h
  exact hdt hp

theorem st_eq (h : UnchangedOutside p s t) (hp : p.st = false) : t.st = s.st := by
  obtain ⟨-, -, -, -, -, -, -, hst, -⟩ := h
  exact hst hp

theorem now_eq (h : UnchangedOutside p s t) : t.now = s.now := by
  obtain ⟨-, -, -, -, -, -, -, -, -, -, -, -, -, -, hnow, -⟩ := h
  exact hnow

end Updates

end Sys2Proof.Machine.UnchangedOutside

namespace Sys2Proof.Proofs.Outcomes
open Sys2Proof.Machine

/-! ### The shape of an answer -/

/-- An outcome that is a next state with `P` or a fault with `Q`. -/
def Answers (P : State → Prop) (Q : Fault → Prop) : Host.Outcome State Fault Refusal → Prop
  | .next t => P t
  | .fault f => Q f
  | .refused _ => False

section Answers
variable {P : State → Prop} {Q : Fault → Prop} {o : Host.Outcome State Fault Refusal}

theorem Answers.of_next {t : State} (h : Answers P Q o) (ho : o = .next t) : P t := by
  subst ho
  exact h

theorem Answers.of_fault {f : Fault} (h : Answers P Q o) (ho : o = .fault f) : Q f := by
  subst ho
  exact h

theorem Answers.ne_refused (h : Answers P Q o) (r : Refusal) : o ≠ .refused r := by
  rintro rfl
  exact h

end Answers

/-- The errors an execute phase can raise, each with the state as the phase found it (R240, R250). -/
inductive ExecFault : Instr → State → Fault → Prop where
  | draw (x y : Reg) (n : RowCount) (s : State) : ExecFault (.draw x y n) s (.outOfBounds s)
  | storeBcd (x : Reg) (s : State) : ExecFault (.storeBcd x) s (.outOfBounds s)
  | storeRegs (x : Reg) (s : State) : ExecFault (.storeRegs x) s (.outOfBounds s)
  | loadRegs (x : Reg) (s : State) : ExecFault (.loadRegs x) s (.outOfBounds s)
  | callFull (nnn : Address) (s : State) : ExecFault (.call nnn) s (.stackOverflow s)
  | retEmpty (s : State) : ExecFault .ret s (.stackUnderflow s)
  | skipIfPressed (x : Reg) (s : State) : ExecFault (.skipIfPressed x) s (.keyIndexOutOfRange s)
  | skipIfNotPressed (x : Reg) (s : State) : ExecFault (.skipIfNotPressed x) s (.keyIndexOutOfRange s)
  | callBeyond (nnn : Address) (s : State) (h : 16 < s.sp.toNat) : ExecFault (.call nnn) s (.stackPointerBeyondStack s)
  | retBeyond (s : State) (h : 16 < s.sp.toNat) : ExecFault .ret s (.stackPointerBeyondStack s)

/-- What R42 and R240 allow an instruction to answer. -/
abbrev AnswersByTable (i : Instr) (s : State) (o : Host.Outcome State Fault Refusal) : Prop :=
  Answers (UnchangedOutside (mayWrite i s) s) (ExecFault i s) o

/-! ### The shared operations -/

theorem execCall_answers (nnn : Address) (s : State) : AnswersByTable (.call nnn) s (execCall nnn s) := by
  obtain ⟨_, h⟩ | ⟨-, h⟩ | ⟨hsp, h⟩ := pushThen_cases s.pc (fun t => t.setPc (addressOperand nnn)) s <;> rw [execCall, h]
  · exact (((UnchangedOutside.refl _ s).setStk (beq_self_eq_true _) _).setSp rfl _).setPc rfl _
  · exact .callFull nnn s
  · exact .callBeyond nnn s hsp

theorem execRet_answers (s : State) : AnswersByTable .ret s (execRet s) := by
  obtain ⟨-, h⟩ | ⟨_, -, h⟩ | ⟨hsp, h⟩ := popThen_cases (fun w t => t.setPc w) s <;> rw [execRet, h]
  · exact .retEmpty s
  · exact ((UnchangedOutside.refl _ s).setSp rfl _).setPc rfl _
  · exact .retBeyond s hsp

/-- A block store leaves every byte outside its block. -/
theorem storeBlock_answers {i : Instr} {s : State} {bytes : List Byte}
    (hp : ∀ a, (mayWrite i s).mem a = false → ¬ (dataAddress s ≤ a ∧ a < dataAddress s + bytes.length))
    (hfault : ExecFault i s (.outOfBounds s)) : AnswersByTable i s (storeBlock bytes s) := by
  obtain ⟨-, h⟩ | ⟨-, h⟩ := storeBlock_cases bytes s <;> rw [h]
  · exact (UnchangedOutside.refl _ s).setMem fun a ha => (Memory.readByte_writeBytes _ _ _ _).trans (if_neg (hp a ha))
  · exact hfault

theorem execStoreBcd_answers (x : Reg) (s : State) : AnswersByTable (.storeBcd x) s (execStoreBcd x s) := by
  refine storeBlock_answers (fun a ha => ?_) (.storeBcd x s)
  simpa [mayWrite, length_decimalDigits] using ha

theorem execStoreRegs_answers (x : Reg) (s : State) : AnswersByTable (.storeRegs x) s (execStoreRegs x s) := by
  refine storeBlock_answers (fun a ha => ?_) (.storeRegs x s)
  simpa [mayWrite] using ha

theorem execLoadRegs_answers (x : Reg) (s : State) : AnswersByTable (.loadRegs x) s (execLoadRegs x s) := by
  obtain ⟨-, h⟩ | ⟨-, h⟩ := execLoadRegs_cases x s <;> rw [h]
  · refine (UnchangedOutside.refl _ s).setRegisters fun k hk => ?_
    have hxk : x < k := by simpa [mayWrite] using hk
    rw [← State.getV_setRegisters s, getV_loadRegisters, if_neg (Nat.not_lt_of_le hxk)]
  · exact .loadRegs x s

theorem execDraw_answers (x y : Reg) (n : RowCount) (s : State) : AnswersByTable (.draw x y n) s (execDraw x y n s) := by
  obtain ⟨-, h⟩ | ⟨-, h⟩ := execDraw_cases x y n s <;> rw [h]
  · exact (((UnchangedOutside.refl _ s).setFb rfl _).setV (beq_self_eq_true _) _).setDirty rfl _
  · exact .draw x y n s

theorem skipOnKey_answers {i : Instr} {s : State} (x : Reg) (c : Bool → Bool) (hp : (mayWrite i s).pc = true)
    (hfault : ExecFault i s (.keyIndexOutOfRange s)) : AnswersByTable i s (skipOnKey x c s) := by
  obtain ⟨_, h⟩ | ⟨-, h⟩ := skipOnKey_cases x c s <;> rw [h]
  · exact (UnchangedOutside.refl _ s).setPc hp _
  · exact hfault

/-- The table's two rows of `wait-for-key` are told apart as the meaning tells them apart. -/
theorem any_key_iff (s : State) : s.key.any (fun down => down) = true ↔ ∃ k : Fin 16, s.key[k] = true := by
  simp [Vector.any_eq_true, Fin.exists_iff]

theorem execWaitForKey_answers (x : Reg) (s : State) : AnswersByTable (.waitForKey x) s (execWaitForKey x s) := by
  obtain ⟨hup, h⟩ | ⟨k, hdown, -, h⟩ := execWaitForKey_cases x s <;> rw [h]
  · have hany : ¬ s.key.any (fun down => down) = true := by simp [any_key_iff, hup]
    exact (UnchangedOutside.refl _ s).setPc (by rw [mayWrite, if_neg hany]) _
  · have hany : s.key.any (fun down => down) = true := (any_key_iff s).mpr ⟨k, hdown⟩
    exact (UnchangedOutside.refl _ s).setV (by rw [mayWrite, if_pos hany]; exact beq_self_eq_true x) _

/-- The flag and the result, in either register (42_alu.md R146). -/
theorem flagThenResult_unchangedOutside {p : Parts} {x : Reg} (s : State) (flag : Byte) (result : State → Byte)
    (hx : p.v x = true) (hvf : p.v vf = true) : UnchangedOutside p s (flagThenResult flag x result s) :=
  ((UnchangedOutside.refl p s).setV hvf _).setV hx _

/-! ### Every instruction -/

/-- The execute phase of every instruction answers by the spec's tables. -/
theorem exec_answers (i : Instr) (s : State) : AnswersByTable i s (exec i s) := by
  have hrefl := UnchangedOutside.refl (mayWrite i s) s
  cases i with
  | clearDisplay => exact hrefl.setFb rfl _
  | ret => exact execRet_answers s
  | jump _ | jumpIndexed _ => exact hrefl.setPc rfl _
  | call nnn => exact execCall_answers nnn s
  | skipEqImm _ _ | skipNeImm _ _ | skipEqReg _ _ | skipNeReg _ _ => exact hrefl.setPc rfl _
  | loadImm x _ | addImm x _ | move x _ | or x _ | and x _ | xor x _ | random x _ | loadDt x =>
    exact hrefl.setV (beq_self_eq_true x) _
  | add x _ | sub x _ | shiftRight x _ | subn x _ | shiftLeft x _ =>
    exact flagThenResult_unchangedOutside s _ _ (by simp [mayWrite]) (by simp [mayWrite])
  | loadIndex _ | loadFontIndex _ => exact hrefl.setI rfl _
  | addIndex _ => exact (hrefl.setI rfl _).setWarn rfl _
  | draw x y n => exact execDraw_answers x y n s
  | skipIfPressed x => exact skipOnKey_answers x (fun down => down) rfl (.skipIfPressed x s)
  | skipIfNotPressed x => exact skipOnKey_answers x (fun down => !down) rfl (.skipIfNotPressed x s)
  | waitForKey x => exact execWaitForKey_answers x s
  | setDt _ => exact hrefl.setDt rfl _
  | setSt _ => exact hrefl.setSt rfl _
  | storeBcd x => exact execStoreBcd_answers x s
  | storeRegs x => exact execStoreRegs_answers x s
  | loadRegs x => exact execLoadRegs_answers x s

/-- A completed execute phase wrote what R42 lets it write. -/
theorem exec_next_frame {i : Instr} {s t : State} (h : exec i s = .next t) : UnchangedOutside (mayWrite i s) s t :=
  (exec_answers i s).of_next h

/-- A failed one raised an error of its own and left the state. -/
theorem exec_fault {i : Instr} {s : State} {f : Fault} (h : exec i s = .fault f) : ExecFault i s f :=
  (exec_answers i s).of_fault h

theorem ExecFault.stateLeft_eq {i : Instr} {s : State} {f : Fault} (h : ExecFault i s f) : stateLeft f = s := by
  cases h <;> rfl

/-! ### The obligations -/

/-- Settles O35: the frame of every instruction, for the family of 41_control_flow.md. -/
theorem controlFlowFrame : Obligations.ControlFlowFrame := fun _ _ _ _ => exec_next_frame

/-- Settles O36: the frame of every instruction, for the family of 42_alu.md. -/
theorem aluFrame : Obligations.AluFrame := fun _ _ _ _ => exec_next_frame

/-- Settles O37: the frame of every instruction, for the family of 43_index_memory.md. -/
theorem indexMemoryFrame : Obligations.IndexMemoryFrame := fun _ _ _ _ => exec_next_frame

/-- Settles O38: the frame of every instruction, for the family of 44_display.md. -/
theorem displayFrame : Obligations.DisplayFrame := fun _ _ _ _ => exec_next_frame

/-- Settles O39: the frame of every instruction, for the family of 45_keys_timers.md. -/
theorem keysTimersFrame : Obligations.KeysTimersFrame := fun _ _ _ _ => exec_next_frame

/-- Settles O47: an execute phase answers a next state or an error, and a step refuses only where its execute phase does. -/
theorem nothingIsRefused : Obligations.NothingIsRefused := by
  refine ⟨fun i s => (exec_answers i s).ne_refused, fun s r hstep => ?_⟩
  obtain ⟨u, i, hexec⟩ := stepWith_refused hstep
  exact (exec_answers i u).ne_refused r hexec

end Sys2Proof.Proofs.Outcomes
end

section
/-!
PROOF. The step from outside: what it answers in each of the three situations of its phases (40_step_cycle.md R101 to R106),
the state and the code of each error (R108, 60_exceptions.md R240), and the timers. Execute phases enter through Outcomes'
exec_next_frame and exec_fault alone.
-/
namespace Sys2Proof.Proofs.StepOutcomes
open Sys2Proof.Machine Sys2Proof.Proofs.StepCycle Sys2Proof.Proofs.Outcomes

/-! ### The three situations -/

section Situations
variable {now : Nat} {rand : Byte} {s : State}

theorem stepWith_of_no_room (h : 4096 < s.pc.toNat + 2) :
    stepWith now rand s = .fault (.outOfBounds (timerPhase (sampleInputs now rand s))) := by
  simp only [stepWith, fetch_timerPhase, if_neg (Nat.not_le_of_lt h), raise]

theorem stepWith_of_decode_ok {i : Instr} (hroom : s.pc.toNat + 2 ≤ 4096) (hd : decodeWord (wordAtPc s) = .ok i) :
    stepWith now rand s = postCheck (exec i (afterFetch now rand s)) := by
  simp only [stepWith, fetch_timerPhase, if_pos hroom, executeWord, afterFetch_ir, hd]

end Situations

/-! ### The codes (R240) -/

/-- RomTooLarge is no error of a step. -/
theorem resultCode_ne_six (o : Host.Outcome State Fault Refusal) : resultCode o ≠ some 6 := by
  rcases o with _ | f | _
  · simp [resultCode]
  · cases f <;> simp [resultCode, reportedError, errorCode]
  · simp [resultCode]

theorem resultCode_postCheck_next (t : State) :
    resultCode (postCheck (.next t)) = some (if 4096 ≤ t.pc.toNat then 4 else 0) := by
  by_cases h : 4096 ≤ t.pc.toNat <;> simp [postCheck, raise, resultCode, reportedError, errorCode, h]

theorem loadResultCode_loadRom (rom : List Byte) (s : State) :
    loadResultCode (loadRom rom s).1 = if 3584 < rom.length then 6 else 0 := by
  obtain ⟨hfits, h⟩ | ⟨hlong, h⟩ := loadRom_cases rom s <;> rw [h]
  · rw [if_neg (Nat.not_lt_of_le hfits)]
    rfl
  · rw [if_pos hlong]
    rfl

/-! ### The timers (R101) -/

/-- A count that is what it was or one less. -/
def Ticks (before after : Byte) : Prop := after.toNat = before.toNat ∨ after.toNat + 1 = before.toNat

theorem ticks_countDown (due : Bool) (t : Byte) : Ticks t (if due then countDown t else t) := by
  cases due
  · exact .inl rfl
  · have := countDown_toNat t
    simp only [Ticks, ↓reduceIte]
    omega

theorem mayWrite_dt {i : Instr} (h : ∀ x, i ≠ .setDt x) (s : State) : (mayWrite i s).dt = false := by
  cases i with
  | setDt x => exact absurd rfl (h x)
  | waitForKey x => rw [mayWrite]; split <;> rfl
  | _ => rfl

theorem mayWrite_st {i : Instr} (h : ∀ x, i ≠ .setSt x) (s : State) : (mayWrite i s).st = false := by
  cases i with
  | setSt x => exact absurd rfl (h x)
  | waitForKey x => rw [mayWrite]; split <;> rfl
  | _ => rfl

/-- The state a step leaves: that of the timer phase or of the fetch where a phase failed, or that of a completed execute
phase. -/
theorem left_cases {now : Nat} {rand : Byte} {s t : State}
    (h : stepWith now rand s = .next t ∨ ∃ f, stepWith now rand s = .fault f ∧ stateLeft f = t) :
    t = timerPhase (sampleInputs now rand s) ∨ t = afterFetch now rand s ∨
    (s.pc.toNat ≤ 4094 ∧ ∃ i, decodeWord (wordAtPc s) = .ok i ∧ exec i (afterFetch now rand s) = .next t) := by
  obtain hnext | ⟨f, hfault, rfl⟩ := h
  · obtain ⟨hroom, i, hd, hexec, -⟩ := stepWith_next hnext
    exact .inr (.inr ⟨by omega, i, hd, hexec⟩)
  · obtain ⟨-, rfl⟩ | ⟨hroom, ⟨_, -, rfl⟩ | ⟨i, hd, hexec | ⟨t, hexec, -, rfl⟩⟩⟩ := stepWith_fault hfault
    · exact .inl rfl
    · exact .inr (.inl rfl)
    · exact .inr (.inl (exec_fault hexec).stateLeft_eq)
    · exact .inr (.inr ⟨by omega, i, hd, hexec⟩)

/-! ### The obligations -/

/-- Settles O46: exec_fault for the table's rows; the codes by the three situations of a step, and a load's by its length. -/
theorem executeErrorsAreThoseOfTheTable : Obligations.ExecuteErrorsAreThoseOfTheTable := by
  refine ⟨fun i s f hexec => ?_, fun now rand s => ⟨fun hpc => ?_, fun hpc hnone => ?_, fun hpc i hd => ⟨fun t hexec => ?_,
    fun f hexec => ?_⟩, resultCode_ne_six _⟩, loadResultCode_loadRom⟩
  · cases exec_fault hexec <;> simp [stateLeft, resultCode, reportedError, errorCode, *]
  · rw [stepWith_of_no_room (by omega)]
    rfl
  · cases hd : decodeWord (wordAtPc s) with
    | ok i => exact absurd hd (hnone i)
    | error e =>
      rw [stepWith_of_decode_error (by omega) hd]
      rfl
  · rw [stepWith_of_decode_ok (by omega) hd, hexec, resultCode_postCheck_next]
  · rw [stepWith_of_decode_ok (by omega) hd, hexec]
    rfl

/-- Settles O48: the faults of a step by phase, where an execute phase that fails leaves the state it found. -/
theorem stepErrorsLeaveTheStateOfTheSummary : Obligations.StepErrorsLeaveTheStateOfTheSummary := by
  intro now rand s f hfault
  obtain ⟨hroom, hf⟩ | ⟨hroom, ⟨_, -, rfl⟩ | ⟨i, hd, hexec | ⟨t, hexec, ht, rfl⟩⟩⟩ := stepWith_fault hfault
  · exact .inl ⟨by omega, hf⟩
  · exact .inr (.inl ⟨by omega, rfl, by simp⟩)
  · have hf := exec_fault hexec
    refine .inr (.inl ⟨by omega, hf.stateLeft_eq, ?_⟩)
    rintro t rfl
    cases hf
  · exact .inr (.inr ⟨by omega, i, t, hd, hexec, ht, rfl⟩)

/-- Settles O44: the timer phase ticks each timer at most once, and the frame of every instruction but the timer's own write
leaves it. -/
theorem onlyTimerWritesRaiseATimer : Obligations.OnlyTimerWritesRaiseATimer := by
  intro now rand s t hleft
  have hdt : Ticks s.dt (afterFetch now rand s).dt := by
    simpa using ticks_countDown (timerDue (sampleInputs now rand s)) s.dt
  have hst : Ticks s.st (afterFetch now rand s).st := by
    simpa using ticks_countDown (timerDue (sampleInputs now rand s)) s.st
  obtain rfl | rfl | ⟨hpc, i, hd, hexec⟩ := left_cases hleft
  · exact ⟨fun _ => afterFetch_dt now rand s ▸ hdt, fun _ => afterFetch_st now rand s ▸ hst⟩
  · exact ⟨fun _ => hdt, fun _ => hst⟩
  · have hframe := exec_next_frame hexec
    refine ⟨fun hset => ?_, fun hset => ?_⟩
    · rw [hframe.dt_eq (mayWrite_dt (fun x hi => hset hpc x (hi ▸ hd)) _)]
      exact hdt
    · rw [hframe.st_eq (mayWrite_st (fun x hi => hset hpc x (hi ▸ hd)) _)]
      exact hst

/-- Settles O40: the post-check of the execute phase is the statement's report of a PC of 4096 or more. -/
theorem stepRunsTheDecodedInstruction : Obligations.StepRunsTheDecodedInstruction := by
  refine ⟨fun now rand s i hroom hd => ?_, step_eq⟩
  rw [stepWith_of_decode_ok hroom hd]
  cases exec i (afterFetch now rand s) <;> rfl

/-- Settles O42: the fetch finds no two bytes at PC. -/
theorem fetchBeyondMemoryRaisesOutOfBounds : Obligations.FetchBeyondMemoryRaisesOutOfBounds :=
  fun _ _ _ hpc => stepWith_of_no_room (by omega)

/-- Settles O43: the timer phase by whether a period has elapsed; its other fields are those of Laws. -/
theorem timerPhaseCountsDownOnce : Obligations.TimerPhaseCountsDownOnce := by
  rintro now rand s t rfl
  have hdue : timerDue (sampleInputs now rand s) = true ↔ s.tref + 16667 ≤ now := timerDue_iff _
  refine ⟨fun h => ?_, fun h => ?_, rfl, rfl, rfl, rfl, rfl, rfl, rfl, rfl, rfl, rfl⟩
  · have h := hdue.mpr h
    simp [h, countDown_toNat]
  · have h : timerDue (sampleInputs now rand s) = false := by
      rw [← Bool.not_eq_true, hdue]
      omega
    simp [h]

end Sys2Proof.Proofs.StepOutcomes
end

section
/-!
PROOF. Jumps, skips, call and return (41_control_flow.md). PC as a number after a skip; the stack through Laws' pushThen and
popThen: call is the push and return the pop that set PC.
-/
namespace Sys2Proof.Proofs.ControlFlow
open Sys2Proof.Machine

/-! ### Skips (R128) -/

/-- Below the top of the address space the skip does not wrap. -/
theorem skipIf_pc_toNat {s : State} (h : s.pc.toNat ≤ 4096) (c : Bool) :
    (skipIf c s).pc.toNat = if c = true then s.pc.toNat + 2 else s.pc.toNat := by
  cases c
  · rfl
  · simp only [skipIf, State.setPc_pc, ↓reduceIte, BitVec.toNat_add, BitVec.reduceToNat]
    omega

/-- A skip on equality of two bytes, compared as numbers. -/
theorem skipIf_beq_pc {s : State} (h : s.pc.toNat ≤ 4096) (a b : Byte) :
    (skipIf (a == b) s).pc.toNat = if a.toNat = b.toNat then s.pc.toNat + 2 else s.pc.toNat := by
  simp only [skipIf_pc_toNat h, beq_iff_eq, BitVec.toNat_inj]

theorem skipIf_bne_pc {s : State} (h : s.pc.toNat ≤ 4096) (a b : Byte) :
    (skipIf (a != b) s).pc.toNat = if a.toNat = b.toNat then s.pc.toNat else s.pc.toNat + 2 := by
  simp only [skipIf_pc_toNat h, bne_iff_ne, ne_eq, BitVec.toNat_inj, ite_not]

/-! ### Call and return (R120, R122) -/

theorem exec_call (nnn : Address) (s : State) :
    exec (.call nnn) s = pushThen s.pc (fun t => t.setPc (addressOperand nnn)) s := rfl

theorem exec_ret (s : State) : exec .ret s = popThen (fun w t => t.setPc w) s := rfl

section Stack
variable {nnn : Address} {s t : State}

/-- A call that answers a next state had room and answers this one. -/
theorem exec_call_next (h : exec (.call nnn) s = .next t) : ∃ hroom : s.sp.toNat < 16,
    t = ((s.setStk ⟨s.sp.toNat, hroom⟩ s.pc).setSp (s.sp + 1)).setPc (addressOperand nnn) := by
  rw [exec_call] at h
  obtain ⟨hroom, e⟩ | ⟨-, e⟩ | ⟨-, e⟩ := pushThen_cases s.pc (fun u => u.setPc (addressOperand nnn)) s <;> rw [e] at h
  · cases h
    exact ⟨hroom, rfl⟩
  · cases h
  · cases h

theorem exec_call_of_room (hroom : s.sp.toNat < 16) : exec (.call nnn) s =
    .next (((s.setStk ⟨s.sp.toNat, hroom⟩ s.pc).setSp (s.sp + 1)).setPc (addressOperand nnn)) := by
  rw [exec_call, pushThen_of_room hroom]

theorem exec_ret_of_entry (h0 : s.sp ≠ 0) (hentry : s.sp.toNat - 1 < 16) :
    exec .ret s = .next ((s.setSp (s.sp - 1)).setPc s.stk[s.sp.toNat - 1]) := by
  rw [exec_ret, popThen_of_entry h0 hentry]

theorem sp_add_one_toNat (hroom : s.sp.toNat < 16) : (s.sp + 1).toNat = s.sp.toNat + 1 := by
  bv_omega

theorem sp_ne_zero (h : 0 < s.sp.toNat) : s.sp ≠ 0 := fun e => by simp [e] at h

end Stack

/-! ### The obligations -/

/-- Settles O16: V0 and a 12-bit operand sum to less than 65536. -/
theorem jumpsSetPc : Obligations.JumpsSetPc := by
  intro nnn s
  have hv0 := (s.getV 0).isLt
  have hnnn := nnn.isLt
  refine ⟨⟨s.setPc (addressOperand nnn), rfl, addressOperand_toNat nnn⟩,
    ⟨s.setPc (widen (s.getV 0) + addressOperand nnn), rfl, ?_⟩⟩
  rw [State.setPc_pc, BitVec.toNat_add, widen_toNat, addressOperand_toNat]
  omega

/-- Settles O17: each is a skip on equality or on its negation. -/
theorem registerSkipsMovePc : Obligations.RegisterSkipsMovePc := by
  intro x y kk s hpc
  refine ⟨⟨skipIf (s.getV x == kk) s, rfl, ?_⟩, ⟨skipIf (s.getV x != kk) s, rfl, ?_⟩,
    ⟨skipIf (s.getV x == s.getV y) s, rfl, ?_⟩, ⟨skipIf (s.getV x != s.getV y) s, rfl, ?_⟩⟩
  · exact skipIf_beq_pc hpc _ _
  · exact skipIf_bne_pc hpc _ _
  · exact skipIf_beq_pc hpc _ _
  · exact skipIf_bne_pc hpc _ _

/-- Settles O18: the push with room. -/
theorem callStacksTheReturnAddress : Obligations.CallStacksTheReturnAddress := by
  intro nnn s hroom
  refine ⟨_, exec_call_of_room hroom, ?_, sp_add_one_toNat hroom, addressOperand_toNat nnn, fun j hj => ?_⟩
  · simp [hroom]
  · simp [Vector.getElem_set_ne, hj.symm]

/-- Settles O19: the pop of an entry. -/
theorem returnPopsTheNewestAddress : Obligations.ReturnPopsTheNewestAddress := by
  intro s hpos hle
  have hentry : s.sp.toNat - 1 < 16 := by omega
  refine ⟨_, exec_ret_of_entry (sp_ne_zero hpos) hentry, ?_, ?_, rfl⟩
  · simp only [State.setPc_sp, State.setSp_sp]
    bv_omega
  · simp [hentry]

/-- Settles O20: of all a push and a pop can answer, only the case SP = 16 and the case SP = 0 are these errors. -/
theorem stackErrorsChangeNothing : Obligations.StackErrorsChangeNothing := by
  intro nnn s
  rw [exec_call, exec_ret]
  refine ⟨⟨pushThen_full, fun h => ?_⟩, ⟨fun h => popThen_empty (BitVec.eq_of_toNat_eq h), fun h => ?_⟩⟩
  · obtain ⟨_, e⟩ | ⟨hfull, -⟩ | ⟨-, e⟩ := pushThen_cases s.pc (fun u => u.setPc (addressOperand nnn)) s
    · rw [e] at h; cases h
    · exact hfull
    · rw [e] at h; cases h
  · obtain ⟨hempty, -⟩ | ⟨_, -, e⟩ | ⟨-, e⟩ := popThen_cases (fun w u => u.setPc w) s
    · rw [hempty]; rfl
    · rw [e] at h; cases h
    · rw [e] at h; cases h

/-- Settles O21: the entry below the new SP is the one the call wrote. -/
theorem returnUndoesCall : Obligations.ReturnUndoesCall := by
  intro nnn s t u hcall hstk hsp
  obtain ⟨hroom, rfl⟩ := exec_call_next hcall
  have hcount : u.sp.toNat = s.sp.toNat + 1 := by
    rw [hsp]
    exact sp_add_one_toNat hroom
  have hentry : u.sp.toNat - 1 < 16 := by omega
  refine ⟨_, exec_ret_of_entry (sp_ne_zero (by omega)) hentry, ?_, ?_⟩
  · simp [hstk, hcount]
  · simp [hsp]

end Sys2Proof.Proofs.ControlFlow
end

section
/-!
PROOF. The invariants of 10_state.md R41. The bounds hold of the state the fetch leaves; a completed execute phase keeps
them, instruction by instruction; a failed one leaves the state as it was (Outcomes); the post-check turns the bound on PC
into an address of memory. A history is then one induction over its events.
-/
namespace Sys2Proof.Proofs.Invariants
open Sys2Proof.Machine Sys2Proof.Proofs.Outcomes Sys2Proof.Proofs.ControlFlow

/-! ### Updates that touch a bound -/

section Updates
variable {s : State}

theorem bounded_setPc (h : s.Bounded) {w : Word} (hw : w.toNat ≤ 4350) : (s.setPc w).Bounded := by
  obtain ⟨hmem, hsp, hstk, -, htref⟩ := h
  exact ⟨hmem, hsp, hstk, hw, htref⟩

theorem bounded_setSp (h : s.Bounded) {b : Byte} (hb : b.toNat ≤ 16) : (s.setSp b).Bounded := by
  obtain ⟨hmem, -, hstk, hpc, htref⟩ := h
  exact ⟨hmem, hb, hstk, hpc, htref⟩

theorem bounded_setStk (h : s.Bounded) {w : Word} (hw : w.toNat ≤ 4096) (j : Fin 16) : (s.setStk j w).Bounded := by
  obtain ⟨hmem, hsp, hstk, hpc, htref⟩ := h
  refine ⟨hmem, hsp, fun k => ?_, hpc, htref⟩
  by_cases hjk : j.val = k.val
  · simpa [hjk] using hw
  · simpa [Vector.getElem_set_ne, hjk] using hstk k

theorem bounded_setMem (h : s.Bounded) {m : Memory} (hm : m.wf = true) : (s.setMem m).Bounded := by
  obtain ⟨-, hsp, hstk, hpc, htref⟩ := h
  exact ⟨hm, hsp, hstk, hpc, htref⟩

end Updates

/-! ### The execute phase -/

/-- The state in which the fetch leaves the machine: bounded, with PC the address after an instruction in memory. -/
structure Fetched (s : State) : Prop where
  bounded : s.Bounded
  two_le_pc : 2 ≤ s.pc.toNat
  pc_le : s.pc.toNat ≤ 4096

section Execute
variable {s : State}

/-- A completed outcome leaves a bounded state. -/
abbrev KeepsBounds (o : Host.Outcome State Fault Refusal) : Prop := Answers State.Bounded (fun _ => True) o

theorem bounded_skipIf (h : Fetched s) (c : Bool) : (skipIf c s).Bounded := by
  have hpc := h.pc_le
  refine bounded_setPc h.bounded ?_
  rw [← State.setPc_pc s (if c then _ else _), ← skipIf, skipIf_pc_toNat hpc]
  split <;> omega

theorem execCall_keepsBounds (h : Fetched s) (nnn : Address) : KeepsBounds (execCall nnn s) := by
  obtain ⟨hsp, e⟩ | ⟨-, e⟩ | ⟨-, e⟩ := pushThen_cases s.pc (fun t => t.setPc (addressOperand nnn)) s <;> rw [execCall, e]
  · have hnnn := nnn.isLt
    refine bounded_setPc (bounded_setSp (bounded_setStk h.bounded h.pc_le _) ?_) ?_
    · rw [sp_add_one_toNat hsp]
      omega
    · rw [addressOperand_toNat]
      omega
  · trivial
  · trivial

theorem execRet_keepsBounds (h : Fetched s) : KeepsBounds (execRet s) := by
  obtain ⟨-, e⟩ | ⟨hentry, hne, e⟩ | ⟨-, e⟩ := popThen_cases (fun w t => t.setPc w) s <;> rw [execRet, e]
  · trivial
  · obtain ⟨-, hsp, hstk, -⟩ := h.bounded
    have htop : s.stk[s.sp.toNat - 1].toNat ≤ 4096 := hstk ⟨s.sp.toNat - 1, hentry⟩
    refine bounded_setPc (bounded_setSp h.bounded ?_) (by omega)
    bv_omega
  · trivial

theorem storeBlock_keepsBounds (h : Fetched s) (bytes : List Byte) : KeepsBounds (storeBlock bytes s) := by
  obtain ⟨hroom, e⟩ | ⟨-, e⟩ := storeBlock_cases bytes s <;> rw [e]
  · obtain ⟨hmem, -⟩ := h.bounded
    exact bounded_setMem h.bounded (Memory.writeBytes_keeps_wf hroom hmem)
  · trivial

theorem execLoadRegs_keepsBounds (h : Fetched s) (x : Reg) : KeepsBounds (execLoadRegs x s) := by
  obtain ⟨-, e⟩ | ⟨-, e⟩ := execLoadRegs_cases x s <;> rw [e]
  · exact h.bounded
  · trivial

theorem execDraw_keepsBounds (h : Fetched s) (x y : Reg) (n : RowCount) : KeepsBounds (execDraw x y n s) := by
  obtain ⟨-, e⟩ | ⟨-, e⟩ := execDraw_cases x y n s <;> rw [e]
  · exact h.bounded
  · trivial

theorem skipOnKey_keepsBounds (h : Fetched s) (x : Reg) (c : Bool → Bool) : KeepsBounds (skipOnKey x c s) := by
  obtain ⟨_, e⟩ | ⟨-, e⟩ := skipOnKey_cases x c s <;> rw [e]
  · exact bounded_skipIf h _
  · trivial

theorem execWaitForKey_keepsBounds (h : Fetched s) (x : Reg) : KeepsBounds (execWaitForKey x s) := by
  obtain ⟨-, e⟩ | ⟨_, -, -, e⟩ := execWaitForKey_cases x s <;> rw [e]
  · have h2 := h.two_le_pc
    have hpc := h.pc_le
    exact bounded_setPc h.bounded (by bv_omega)
  · exact h.bounded

/-- The execute phase of every instruction keeps the bounds; those that write neither memory, SP, the stack nor PC answer
updates that no bound reads. -/
theorem exec_keepsBounds (i : Instr) (h : Fetched s) : KeepsBounds (exec i s) := by
  cases i with
  | ret => exact execRet_keepsBounds h
  | jump nnn =>
    have := nnn.isLt
    exact bounded_setPc h.bounded (by rw [addressOperand_toNat]; omega)
  | call nnn => exact execCall_keepsBounds h nnn
  | skipEqImm _ _ | skipNeImm _ _ | skipEqReg _ _ | skipNeReg _ _ => exact bounded_skipIf h _
  | jumpIndexed nnn =>
    have := nnn.isLt
    have := (s.getV 0).isLt
    refine bounded_setPc h.bounded ?_
    rw [BitVec.toNat_add, widen_toNat, addressOperand_toNat]
    omega
  | draw x y n => exact execDraw_keepsBounds h x y n
  | skipIfPressed x => exact skipOnKey_keepsBounds h x (fun down => down)
  | skipIfNotPressed x => exact skipOnKey_keepsBounds h x (fun down => !down)
  | waitForKey x => exact execWaitForKey_keepsBounds h x
  | storeBcd x => exact storeBlock_keepsBounds h _
  | storeRegs x => exact storeBlock_keepsBounds h _
  | loadRegs x => exact execLoadRegs_keepsBounds h x
  | _ => exact h.bounded

end Execute

/-! ### The step -/

section Step
variable {now : Nat} {rand : Byte} {s : State}

theorem bounded_timerPhase (h : s.Bounded) (hnow : s.now ≤ now) : (timerPhase (sampleInputs now rand s)).Bounded := by
  obtain ⟨hmem, hsp, hstk, hpc, htref⟩ := h
  refine ⟨hmem, hsp, hstk, hpc, ?_⟩
  simp only [timerPhase_tref, timerPhase_now, sampleInputs_now, sampleInputs_tref]
  split
  · exact Nat.le_refl now
  · exact Nat.le_trans htref hnow

theorem fetched_afterFetch (h : s.Bounded) (hnow : s.now ≤ now) (hroom : s.pc.toNat + 2 ≤ 4096) :
    Fetched (afterFetch now rand s) := by
  have hpc := afterFetch_pc_toNat now rand s hroom
  refine ⟨bounded_setPc (bounded_timerPhase (rand := rand) h hnow) ?_, by omega, by omega⟩
  rw [afterFetch_pc] at hpc
  omega

/-- A completed step from a bounded state ends with PC an address of memory, at the time it sampled. -/
theorem stepWith_next_inv {t : State} (h : s.Bounded) (hnow : s.now ≤ now) (hstep : stepWith now rand s = .next t) :
    t.Inv ∧ t.now = now := by
  obtain ⟨hroom, i, -, hexec, hpc⟩ := stepWith_next hstep
  exact ⟨⟨(exec_keepsBounds i (fetched_afterFetch h hnow hroom)).of_next hexec, by omega⟩,
    (exec_next_frame hexec).now_eq.trans (afterFetch_now now rand s)⟩

theorem stepWith_fault_bounded {f : Fault} (h : s.Bounded) (hnow : s.now ≤ now) (hstep : stepWith now rand s = .fault f) :
    (stateLeft f).Bounded := by
  obtain ⟨-, rfl⟩ | ⟨hroom, hphase⟩ := stepWith_fault hstep
  · exact bounded_timerPhase h hnow
  · have hfetched := fetched_afterFetch (rand := rand) h hnow hroom
    obtain ⟨_, -, rfl⟩ | ⟨i, -, hexec | ⟨t, hexec, -, rfl⟩⟩ := hphase
    · exact hfetched.bounded
    · rw [(exec_fault hexec).stateLeft_eq]
      exact hfetched.bounded
    · exact (exec_keepsBounds i hfetched).of_next hexec

end Step

/-! ### The host's transactions -/

theorem inv_reset : State.reset.Inv := by decide

theorem inv_resetMachine (now : Nat) (s : State) : (resetMachine now s).Inv := by
  obtain ⟨⟨hmem, hsp, hstk, hpc, -⟩, hpc'⟩ := inv_reset
  rw [resetMachine_eq]
  exact ⟨⟨hmem, hsp, hstk, hpc, Nat.le_refl now⟩, hpc'⟩

/-- No transaction but reset and a load touches what a bound reads. -/
theorem transact_inv (a : Transaction) {s : State} (h : s.Inv) : (transact a s).2.Inv := by
  cases a with
  | reset now => exact inv_resetMachine now s
  | loadRom bytes =>
    obtain ⟨hbounded, hpc⟩ := h
    have hmem : s.mem.wf = true := hbounded.1
    obtain ⟨hlen, e⟩ | ⟨-, e⟩ := loadRom_cases bytes s <;> rw [transact, e]
    · exact ⟨bounded_setMem hbounded (Memory.writeBytes_keeps_wf (by omega) hmem), hpc⟩
    · exact ⟨hbounded, hpc⟩
  | _ => exact h

/-! ### Histories -/

/-- Of the host's transactions only a reset moves the clock, to its own time. -/
theorem clock_after_transact {a : Transaction} {es : List Event} {s : State}
    (h : clockNeverDecreases s.now (.host a :: es) = true) : clockNeverDecreases (transact a s).2.now es = true := by
  cases a with
  | reset now =>
    obtain ⟨-, hrest⟩ := Bool.and_eq_true_iff.mp h
    simpa [transact, resetMachine_eq] using hrest
  | loadRom bytes =>
    have hnow : (loadRom bytes s).2.now = s.now := by
      obtain ⟨-, e⟩ | ⟨-, e⟩ := loadRom_cases bytes s
      · rw [e, State.setMem_now]
      · rw [e]
    rw [transact, hnow]
    exact h
  | _ => exact h

/-- A history from a state that meets the invariant, its clock never behind the state's: it ends in such a state or with an
error that leaves a bounded one. -/
theorem history_answers {es : List Event} {s : State} (hclock : clockNeverDecreases s.now es = true) (h : s.Inv) :
    Answers State.Inv (fun f => (stateLeft f).Bounded) (history es s) := by
  induction es generalizing s with
  | nil => exact h
  | cons e es ih =>
    cases e with
    | step now rand =>
      obtain ⟨hnow, hrest⟩ := Bool.and_eq_true_iff.mp hclock
      rw [decide_eq_true_eq] at hnow
      rw [history, event]
      cases hstep : stepWith now rand s with
      | next t =>
        obtain ⟨hinv, ht⟩ := stepWith_next_inv h.1 hnow hstep
        exact ih (ht ▸ hrest) hinv
      | fault f => exact stepWith_fault_bounded h.1 hnow hstep
      | refused r =>
        obtain ⟨u, i, hexec⟩ := stepWith_refused hstep
        exact (exec_answers i u).ne_refused r hexec
    | host a => exact ih (clock_after_transact hclock) (transact_inv a h)

/-! ### The obligations -/

/-- Settles O49: every bound is a comparison of the reset's literal fields. -/
theorem resetMeetsTheInvariant : Obligations.ResetMeetsTheInvariant := inv_reset

/-- Settles O50: a step is stepWith with inputs that do not set the clock back. -/
theorem stepKeepsTheInvariant : Obligations.StepKeepsTheInvariant := by
  rintro s t ⟨hbounded, -⟩ hstep
  rw [step_eq] at hstep
  exact (stepWith_next_inv (s := s.setStepNo (s.stepNo + 1)) hbounded (now_le_nextNow s) hstep).1

/-- Settles O51: the phase that failed left the state of the timer phase, of the fetch or of a completed instruction. -/
theorem stepErrorsLeaveABoundedState : Obligations.StepErrorsLeaveABoundedState :=
  fun _ _ _ _ => stepWith_fault_bounded

/-- Settles O52: a reset meets the invariant, and a load of at most 3584 bytes stays inside memory. -/
theorem transactionsKeepTheInvariant : Obligations.TransactionsKeepTheInvariant :=
  fun a _ => transact_inv a

/-- Settles O53: an induction over the events, the state's own `now` standing for the last clock value. -/
theorem everyHistoryFromResetKeepsTheInvariant : Obligations.EveryHistoryFromResetKeepsTheInvariant := by
  intro es now s hclock
  have hnow : (resetMachine now s).now = now := by rw [resetMachine_eq]; rfl
  have hanswers := history_answers (hnow.symm ▸ hclock) (inv_resetMachine now s)
  exact ⟨fun _ => hanswers.of_next, fun _ => hanswers.of_fault⟩

end Sys2Proof.Proofs.Invariants
end

section
/-!
PROOF. ST, TREF and IR are read by no execute phase (10_state.md R29, R31, R35). One update that rewrites all three by any
functions is carried through every execute phase; `set-st`, which overwrites ST, is let in where the update leaves ST.
-/
namespace Sys2Proof.Proofs.Unread
open Sys2Proof.Machine

/-- ST, TREF and IR rewritten, each by a function of its own. -/
def rewriteUnread (f : Byte → Byte) (g : Nat → Nat) (h : Word → Word) (s : State) : State :=
  ((s.setSt (f s.st)).setTref (g s.tref)).setIr (h s.ir)

section Carried
variable (f : Byte → Byte) (g : Nat → Nat) (h : Word → Word) (s : State)

@[simp] theorem rewriteUnread_i : (rewriteUnread f g h s).i = s.i := rfl
@[simp] theorem rewriteUnread_sp : (rewriteUnread f g h s).sp = s.sp := rfl
@[simp] theorem rewriteUnread_key : (rewriteUnread f g h s).key = s.key := rfl
@[simp] theorem rewriteUnread_mem : (rewriteUnread f g h s).mem = s.mem := rfl
@[simp] theorem rewriteUnread_getV (x : Reg) : (rewriteUnread f g h s).getV x = s.getV x := rfl

/-- The outcome is the same whatever the three hold, the three themselves carried along. -/
def CarriesThrough (e : State → Host.Outcome State Fault Refusal) : Prop :=
  e (rewriteUnread f g h s) = mapOutcome (rewriteUnread f g h) (e s)

theorem carriesThrough_execCall (nnn : Address) : CarriesThrough f g h s (execCall nnn) := by
  by_cases hroom : s.sp.toNat < Config.stackDepth
  · simp only [CarriesThrough, execCall, pushThen, rewriteUnread_sp, hroom, ↓reduceDIte]
    rfl
  · by_cases hfull : s.sp.toNat = Config.stackDepth
    · simp only [CarriesThrough, execCall, pushThen, rewriteUnread_sp, hfull, ↓reduceIte]
      rfl
    · simp only [CarriesThrough, execCall, pushThen, rewriteUnread_sp, hroom, hfull, ↓reduceDIte, ↓reduceIte]
      rfl

theorem carriesThrough_execRet : CarriesThrough f g h s execRet := by
  by_cases hempty : s.sp = 0
  · simp only [CarriesThrough, execRet, popThen, rewriteUnread_sp, hempty, ↓reduceIte]
    rfl
  · by_cases hentry : s.sp.toNat - 1 < Config.stackDepth
    · simp only [CarriesThrough, execRet, popThen, rewriteUnread_sp, hempty, hentry, ↓reduceDIte, ↓reduceIte]
      rfl
    · simp only [CarriesThrough, execRet, popThen, rewriteUnread_sp, hempty, hentry, ↓reduceDIte, ↓reduceIte]
      rfl

theorem carriesThrough_storeBlock (bytes : List Byte) : CarriesThrough f g h s (storeBlock bytes) := by
  simp only [CarriesThrough, storeBlock, dataAddress, rewriteUnread_mem, rewriteUnread_i]
  split <;> rfl

theorem carriesThrough_execLoadRegs (x : Reg) : CarriesThrough f g h s (execLoadRegs x) := by
  simp only [CarriesThrough, execLoadRegs, dataAddress, rewriteUnread_mem, rewriteUnread_i]
  split <;> rfl

theorem carriesThrough_execDraw (x y : Reg) (n : RowCount) : CarriesThrough f g h s (execDraw x y n) := by
  simp only [CarriesThrough, execDraw, dataAddress, rewriteUnread_mem, rewriteUnread_i]
  split <;> rfl

theorem carriesThrough_skipOnKey (x : Reg) (c : Bool → Bool) : CarriesThrough f g h s (skipOnKey x c) := by
  by_cases hkey : (s.getV x).toNat < 16
  · simp only [CarriesThrough, skipOnKey, rewriteUnread_getV, rewriteUnread_key, hkey, ↓reduceDIte]
    rfl
  · simp only [CarriesThrough, skipOnKey, rewriteUnread_getV, hkey, ↓reduceDIte]
    rfl

theorem carriesThrough_execWaitForKey (x : Reg) : CarriesThrough f g h s (execWaitForKey x) := by
  simp only [CarriesThrough, execWaitForKey, rewriteUnread_key]
  split <;> rfl

/-- Every execute phase; where no shared operation decides, both sides are the same updates of other fields. -/
theorem carriesThrough_exec {i : Instr} (hst : (∀ x, i ≠ .setSt x) ∨ f = id) : CarriesThrough f g h s (exec i) := by
  cases i with
  | setSt x =>
    obtain hne | rfl := hst
    · exact absurd rfl (hne x)
    · rfl
  | ret => exact carriesThrough_execRet f g h s
  | call nnn => exact carriesThrough_execCall f g h s nnn
  | draw x y n => exact carriesThrough_execDraw f g h s x y n
  | skipIfPressed x => exact carriesThrough_skipOnKey f g h s x (fun down => down)
  | skipIfNotPressed x => exact carriesThrough_skipOnKey f g h s x (fun down => !down)
  | waitForKey x => exact carriesThrough_execWaitForKey f g h s x
  | storeBcd x => exact carriesThrough_storeBlock f g h s (decimalDigits (s.getV x))
  | storeRegs x => exact carriesThrough_storeBlock f g h s (registersUpTo s x)
  | loadRegs x => exact carriesThrough_execLoadRegs f g h s x
  | _ => rfl

end Carried

/-- Settles O45: each of the three writes is the update that leaves the other two. -/
theorem soundTimerReferenceAndScratchAreUnread : Obligations.SoundTimerReferenceAndScratchAreUnread := by
  refine fun i s b n w => ⟨fun hne => ?_, ?_, ?_, ?_⟩
  · exact carriesThrough_exec (fun _ => b) id id s (.inl hne)
  · rintro x rfl
    rfl
  · exact carriesThrough_exec id (fun _ => n) id s (.inr rfl)
  · exact carriesThrough_exec id id (fun _ => w) s (.inr rfl)

end Sys2Proof.Proofs.Unread
end

section
/-!
PROOF. The flag-writing operations and random (42_alu.md R149 to R153, R163, R164). All five flag-writers answer one pair of
writes, the flag first (R146): what VF and Vx are after it is said once for a destination other than VF and once for VF
itself. What is left is the value of each flag and result as a number.
-/
namespace Sys2Proof.Proofs.Flags
open Sys2Proof.Machine Sys2Proof.Proofs.Alu

/-! ### The two writes in sequence (R146) -/

section TwoWrites
variable {i : Instr} {s : State} {x : Reg} {flag : Byte} {result : State → Byte}

/-- A destination other than VF: both writes show. -/
theorem exec_flag_and_result (h : exec i s = .next (flagThenResult flag x result s)) (hx : x ≠ vf) :
    ∃ t, exec i s = .next t ∧ t.getV x = result (s.setV vf flag) ∧ t.getV vf = flag := by
  refine ⟨_, h, ?_, ?_⟩
  · rw [getV_flagThenResult, if_pos rfl]
  · rw [getV_flagThenResult, if_neg hx.symm, if_pos rfl]

/-- VF as the destination: the result overwrites the flag. -/
theorem exec_result_over_flag (h : exec i s = .next (flagThenResult flag vf result s)) :
    ∃ t, exec i s = .next t ∧ t.getV vf = result (s.setV vf flag) :=
  ⟨_, h, by rw [getV_flagThenResult, if_pos rfl]⟩

end TwoWrites

section Answers
variable (x y : Reg) (s : State)

theorem exec_add : exec (.add x y) s =
    .next (flagThenResult (carryFlag (s.getV x) (s.getV y)) x (fun t => t.getV x + t.getV y) s) := rfl

theorem exec_sub : exec (.sub x y) s =
    .next (flagThenResult (greaterFlag (s.getV x) (s.getV y)) x (fun t => t.getV x - t.getV y) s) := rfl

theorem exec_subn : exec (.subn x y) s =
    .next (flagThenResult (greaterFlag (s.getV y) (s.getV x)) x (fun t => t.getV y - t.getV x) s) := rfl

theorem exec_shiftRight : exec (.shiftRight x y) s =
    .next (flagThenResult (lowBitFlag (s.getV x)) x (fun t => t.getV x >>> 1) s) := rfl

theorem exec_shiftLeft : exec (.shiftLeft x y) s =
    .next (flagThenResult (highBitFlag (s.getV x)) x (fun t => t.getV x <<< 1) s) := rfl

end Answers

/-! ### Results as numbers (R164) -/

section Numbers
variable (a b : Byte)

theorem toNat_sub_byte : (a - b).toNat =
    if a.toNat ≥ b.toNat then a.toNat - b.toNat else a.toNat + 256 - b.toNat := by
  have ha := a.isLt
  have hb := b.isLt
  rw [BitVec.toNat_sub]
  split <;> omega

theorem toNat_sub_byte_mod : (a - b).toNat = (a.toNat + 256 - b.toNat) % 256 := by
  have hb := b.isLt
  rw [BitVec.toNat_sub]
  omega

theorem toNat_halve : (a >>> 1).toNat = a.toNat / 2 := by
  rw [BitVec.toNat_ushiftRight, Nat.shiftRight_eq_div_pow, pow_one]

theorem toNat_double : (a <<< 1).toNat = a.toNat * 2 % 256 := by
  rw [BitVec.toNat_shiftLeft, Nat.shiftLeft_eq, pow_one]

end Numbers

/-! ### The obligations -/

/-- Settles O11: neither operand is VF, so the flag written first changes neither. -/
theorem addSubSubnOutsideVf : Obligations.AddSubSubnOutsideVf := by
  intro x y s hx hy
  have hread (flag : Byte) : (s.setV vf flag).getV x = s.getV x ∧ (s.setV vf flag).getV y = s.getV y :=
    ⟨State.getV_setV_ne s flag hx, State.getV_setV_ne s flag hy⟩
  refine ⟨?_, ?_, ?_⟩
  · obtain ⟨t, hexec, hresult, hflag⟩ := exec_flag_and_result (exec_add x y s) hx
    refine ⟨t, hexec, ?_, ?_⟩
    · rw [hresult, (hread _).1, (hread _).2, BitVec.toNat_add]
    · rw [hflag, carryFlag_toNat]
  · obtain ⟨t, hexec, hresult, hflag⟩ := exec_flag_and_result (exec_sub x y s) hx
    refine ⟨t, hexec, ?_, ?_⟩
    · rw [hresult, (hread _).1, (hread _).2, toNat_sub_byte]
    · rw [hflag, greaterFlag_toNat]
  · obtain ⟨t, hexec, hresult, hflag⟩ := exec_flag_and_result (exec_subn x y s) hx
    refine ⟨t, hexec, ?_, ?_⟩
    · rw [hresult, (hread _).1, (hread _).2, toNat_sub_byte]
    · rw [hflag, greaterFlag_toNat]

/-- Settles O12: the answers of the shifts do not mention y. -/
theorem shiftsOutsideVfIgnoreY : Obligations.ShiftsOutsideVfIgnoreY := by
  intro x y s hx
  refine ⟨?_, ?_⟩
  · obtain ⟨t, hexec, hresult, hflag⟩ := exec_flag_and_result (exec_shiftRight x y s) hx
    refine ⟨t, hexec, ?_, ?_⟩
    · rw [hresult, State.getV_setV_ne s _ hx, toNat_halve]
    · rw [hflag, lowBitFlag_toNat]
  · obtain ⟨t, hexec, hresult, hflag⟩ := exec_flag_and_result (exec_shiftLeft x y s) hx
    refine ⟨t, hexec, ?_, ?_⟩
    · rw [hresult, State.getV_setV_ne s _ hx, toNat_double]
    · rw [hflag, highBitFlag_toNat]

/-- Settles O13: an operand VF reads as the flag just written, the other as before. -/
theorem addSubSubnNamingVf : Obligations.AddSubSubnNamingVf := by
  intro x s hx
  have hread (flag : Byte) : (s.setV vf flag).getV x = s.getV x := State.getV_setV_ne s flag hx
  refine ⟨?_, ?_, ?_, ?_, ?_, ?_, ?_, ?_, ?_⟩
  · obtain ⟨t, hexec, hresult⟩ := exec_result_over_flag (exec_add vf x s)
    refine ⟨t, hexec, ?_⟩
    rw [hresult, State.getV_setV_same, hread, BitVec.toNat_add, carryFlag_toNat]
  · obtain ⟨t, hexec, hresult, hflag⟩ := exec_flag_and_result (exec_add x vf s) hx
    refine ⟨t, hexec, by rw [hflag, carryFlag_toNat], ?_⟩
    rw [hresult, State.getV_setV_same, hread, hflag, BitVec.toNat_add]
  · obtain ⟨t, hexec, hresult⟩ := exec_result_over_flag (exec_add vf vf s)
    refine ⟨t, hexec, ?_⟩
    rw [hresult, State.getV_setV_same, BitVec.toNat_add, carryFlag_toNat]
    split <;> split <;> omega
  · obtain ⟨t, hexec, hresult⟩ := exec_result_over_flag (exec_sub vf x s)
    refine ⟨t, hexec, ?_⟩
    rw [hresult, State.getV_setV_same, hread, toNat_sub_byte_mod, greaterFlag_toNat]
  · obtain ⟨t, hexec, hresult, hflag⟩ := exec_flag_and_result (exec_sub x vf s) hx
    refine ⟨t, hexec, by rw [hflag, greaterFlag_toNat], ?_⟩
    rw [hresult, State.getV_setV_same, hread, hflag, toNat_sub_byte_mod]
  · obtain ⟨t, hexec, hresult⟩ := exec_result_over_flag (exec_sub vf vf s)
    exact ⟨t, hexec, hresult.trans (BitVec.sub_self _)⟩
  · obtain ⟨t, hexec, hresult⟩ := exec_result_over_flag (exec_subn vf x s)
    refine ⟨t, hexec, ?_⟩
    rw [hresult, State.getV_setV_same, hread, toNat_sub_byte_mod, greaterFlag_toNat]
  · obtain ⟨t, hexec, hresult, hflag⟩ := exec_flag_and_result (exec_subn x vf s) hx
    refine ⟨t, hexec, by rw [hflag, greaterFlag_toNat], ?_⟩
    rw [hresult, State.getV_setV_same, hread, hflag, toNat_sub_byte_mod]
  · obtain ⟨t, hexec, hresult⟩ := exec_result_over_flag (exec_subn vf vf s)
    exact ⟨t, hexec, hresult.trans (BitVec.sub_self _)⟩

/-- Settles O14: what is shifted is the flag just written. -/
theorem shiftsOfVf : Obligations.ShiftsOfVf := by
  intro y s
  refine ⟨?_, ?_⟩
  · obtain ⟨t, hexec, hresult⟩ := exec_result_over_flag (exec_shiftRight vf y s)
    refine ⟨t, hexec, BitVec.eq_of_toNat_eq ?_⟩
    rw [hresult, State.getV_setV_same, toNat_halve, lowBitFlag_toNat]
    exact Nat.div_eq_of_lt (Nat.mod_lt _ (by decide))
  · obtain ⟨t, hexec, hresult⟩ := exec_result_over_flag (exec_shiftLeft vf y s)
    refine ⟨t, hexec, ?_⟩
    rw [hresult, State.getV_setV_same, toNat_double, highBitFlag_toNat]
    split <;> rfl

/-- Settles O15: one register write of a bitwise and. -/
theorem randomMasksTheInputByte : Obligations.RandomMasksTheInputByte := by
  intro x kk s
  have hanswer : exec (.random x kk) s = .next (s.setV x (s.rand &&& kk)) := rfl
  obtain ⟨t, hexec, hx, -⟩ := exec_writes_register hanswer
  refine ⟨t, hexec, fun b _ => ?_⟩
  rw [hx, BitVec.getLsbD_and, Bool.and_eq_true]

end Sys2Proof.Proofs.Flags
end

section
/-!
PROOF. The bus operations (20_memory.md R52, R53) and the block transfers of registers (43_index_memory.md R175, R176), with
the two index operations (R172, R173). A block stored or loaded at I is what IndexMemory and Laws say of any block; the
registers enter as the bytes of the block.
-/
namespace Sys2Proof.Proofs.Blocks
open Sys2Proof.Machine Sys2Proof.Proofs.Memory Sys2Proof.Proofs.IndexMemory

/-! ### Blocks as lists -/

theorem getElem?_readBytes (m : Memory) {a n k : Nat} (hk : k < n) : (m.readBytes a n)[k]? = some (m.readByte (a + k)) := by
  have hlen : k < (m.readBytes a n).length := by rwa [Memory.length_readBytes]
  rw [List.getElem?_eq_getElem hlen, Memory.getElem_readBytes]

/-- A byte of a block just written. -/
theorem readByte_writeBytes_in (m : Memory) (a : Nat) {bytes : List Byte} {k : Nat} (hk : k < bytes.length) :
    bytes[k]? = some ((m.writeBytes a bytes).readByte (a + k)) := by
  rw [Memory.readByte_writeBytes, if_pos (by omega), Nat.add_sub_cancel_left, List.getD_eq_getElem _ _ hk,
    List.getElem?_eq_getElem hk]

/-- A byte outside it. -/
theorem readByte_writeBytes_out (m : Memory) {a k : Nat} {bytes : List Byte} (hk : k < a ∨ a + bytes.length ≤ k) :
    (m.writeBytes a bytes).readByte k = m.readByte k := by
  rw [Memory.readByte_writeBytes, if_neg (by omega)]

/-! ### Register transfers -/

section Transfers
variable {x : Reg} {s t : State}

theorem exec_storeRegs (x : Reg) (s : State) : exec (.storeRegs x) s = storeBlock (registersUpTo s x) s := rfl

theorem exec_loadRegs (x : Reg) (s : State) : exec (.loadRegs x) s = execLoadRegs x s := rfl

/-- A store that answers a next state had room for the block and wrote it. -/
theorem exec_storeRegs_next (h : exec (.storeRegs x) s = .next t) : dataAddress s + x.val + 1 ≤ 4096 ∧
    ∀ k : Reg, k ≤ x → t.mem.readByte (dataAddress s + k.val) = s.getV k := by
  rw [exec_storeRegs] at h
  have hlen := length_registersUpTo s x
  obtain ⟨hroom, e⟩ | ⟨-, e⟩ := storeBlock_cases (registersUpTo s x) s
  · obtain ⟨u, e', -, -, hblock, -⟩ := storeBlock_of_room hroom
    rw [e] at h e'
    cases h
    cases e'
    refine ⟨by rw [dataAddress]; omega, fun k hk => ?_⟩
    have hk' : k.val ≤ x.val := hk
    rw [hblock k.val (by omega), getD_registersUpTo s x k hk]
  · rw [e] at h
    cases h

/-- A load with room answers a next state with the block in the registers up to x and the others as before. -/
theorem exec_loadRegs_of_room (hroom : dataAddress s + x.val + 1 ≤ 4096) : ∃ t, exec (.loadRegs x) s = .next t ∧
    (∀ k : Reg, k ≤ x → t.getV k = s.mem.readByte (dataAddress s + k.val)) ∧ ∀ k : Reg, x < k → t.getV k = s.getV k := by
  rw [exec_loadRegs]
  obtain ⟨-, e⟩ | ⟨hover, -⟩ := execLoadRegs_cases x s
  · refine ⟨_, e, fun k hk => ?_, fun k hk => ?_⟩
    · rw [getV_loadRegisters, if_pos (Nat.lt_succ_of_le hk)]
      rfl
    · rw [getV_loadRegisters, if_neg (Nat.not_lt_of_le hk)]
  · rw [dataAddress] at hroom
    omega

end Transfers

/-! ### The obligations -/

/-- Settles O6: what the bus answers by Laws' two equivalences, byte by byte. -/
theorem memReadAndMemWriteAreBoundedBlocks : Obligations.MemReadAndMemWriteAreBoundedBlocks := by
  refine ⟨fun m addr n => ⟨memRead_eq_none, fun hroom => ?_⟩, fun m addr bytes => ⟨memWrite_eq_none, fun hroom => ?_⟩⟩
  · exact ⟨_, memRead_eq_some.mpr ⟨hroom, rfl⟩, Memory.length_readBytes m addr n, fun k => getElem?_readBytes m⟩
  · exact ⟨_, memWrite_eq_some.mpr ⟨hroom, rfl⟩, fun k => readByte_writeBytes_in m addr,
      fun a => readByte_writeBytes_out m⟩

/-- Settles O23: I is a sum or a product of numbers too small for a second wrap. -/
theorem indexRegisterResults : Obligations.IndexRegisterResults := by
  intro x s
  have hx := (s.getV x).isLt
  refine ⟨⟨(s.setI (s.i + widen (s.getV x))).setWarn _, rfl, ?_, ?_⟩, ⟨s.setI _, rfl, ?_⟩⟩
  · rw [State.setWarn_i, State.setI_i, BitVec.toNat_add, widen_toNat]
  · simp
  · rw [State.setI_i, BitVec.toNat_ofNat]
    change 5 * (s.getV x).toNat % 65536 = _
    omega

/-- Settles O25: the block store of the registers, either way. -/
theorem storeRegsWritesTheBlock : Obligations.StoreRegsWritesTheBlock := by
  intro x s
  have hlen := length_registersUpTo s x
  refine ⟨fun hroom => ?_, fun hover => storeBlock_of_no_room (by omega)⟩
  obtain ⟨t, hstore, -, -, -, hother⟩ := storeBlock_of_room (bytes := registersUpTo s x) (s := s) (by omega)
  obtain ⟨-, hblock⟩ := exec_storeRegs_next hstore
  exact ⟨t, hstore, hblock, fun a ha => hother a (by omega)⟩

/-- Settles O26: the block load, either way. -/
theorem loadRegsReadsTheBlock : Obligations.LoadRegsReadsTheBlock := by
  refine fun x s => ⟨exec_loadRegs_of_room, fun hover => ?_⟩
  obtain ⟨hroom, -⟩ | ⟨-, e⟩ := execLoadRegs_cases x s
  · rw [dataAddress] at hover
    omega
  · exact (exec_loadRegs x s).trans e

/-- Settles O27: the store had room, so the load has it too and reads the bytes stored. -/
theorem loadRegsUndoesStoreRegs : Obligations.LoadRegsUndoesStoreRegs := by
  intro x s t u hstore hi hmem
  obtain ⟨hroom, hblock⟩ := exec_storeRegs_next hstore
  have haddr : dataAddress u = dataAddress s := congrArg BitVec.toNat hi
  obtain ⟨r, hload, hread, -⟩ := exec_loadRegs_of_room (x := x) (s := u) (by omega)
  refine ⟨r, hload, fun k hk => ?_⟩
  rw [hread k hk, haddr, hmem, hblock k hk]

/-- Settles O8: the two bytes at PC are registers k and k + 1 of the block just stored. -/
theorem fetchSeesTheStoreOfTheStepBefore : Obligations.FetchSeesTheStoreOfTheStepBefore := by
  intro x s t k hk hstore hpc hkx
  obtain ⟨hroom, hblock⟩ := exec_storeRegs_next hstore
  rw [dataAddress] at hroom
  obtain ⟨u, hfetch, hir⟩ := fetch_ir_of_room (s := t) (by omega)
  have hhigh : t.mem.readByte (s.i.toNat + k) = s.v[k] := hblock ⟨k, by omega⟩ (Nat.le_of_succ_le hkx)
  have hlow : t.mem.readByte (s.i.toNat + (k + 1)) = s.v[k + 1] := hblock ⟨k + 1, hk⟩ hkx
  refine ⟨u, hfetch, ?_⟩
  rw [hir, wordAtPc, hpc, Nat.add_assoc, hhigh, hlow]

end Sys2Proof.Proofs.Blocks
end

section
/-!
PROOF. What draw does (44_display.md R191, R194, R195). Laws give each cell after a sprite as the cell before, XORed with the
one source bit that meets it; everything here follows from that bit.
-/
namespace Sys2Proof.Proofs.Sprites
open Sys2Proof.Machine

/-! ### The sprite of a draw -/

section Sprite
variable (x y : Reg) (n : RowCount) (s : State)

/-- The source bit that falls on a cell when `draw` runs in a state. -/
def drawnBit (cx : Fin 64) (cy : Fin 32) : Bool :=
  spriteBit (s.getV x).toNat (s.getV y).toNat (s.mem.readBytes s.i.toNat n.val) cx cy

/-- The canvas that `draw` leaves in a state. -/
def drawn : Canvas := drawSprite (s.getV x).toNat (s.getV y).toNat (s.mem.readBytes s.i.toNat n.val) s.fb

/-- The state after a `draw` that had its rows. -/
def afterDraw : State :=
  ((s.setFb (drawn x y n s).fb).setV vf (flagByte (drawn x y n s).collision)).setDirty true

theorem exec_draw_cases : (dataAddress s + n.val ≤ 4096 ∧ exec (.draw x y n) s = .next (afterDraw x y n s)) ∨
    (4096 < dataAddress s + n.val ∧ exec (.draw x y n) s = .fault (.outOfBounds s)) :=
  execDraw_cases x y n s

theorem length_spriteRows_le : (s.mem.readBytes s.i.toNat n.val).length ≤ 32 := by
  rw [Memory.length_readBytes]
  omega

theorem cell_afterDraw (cx : Fin 64) (cy : Fin 32) :
    (afterDraw x y n s).fb.cell cx cy = (s.fb.cell cx cy ^^ drawnBit x y n s cx cy) :=
  cell_drawSprite (length_spriteRows_le n s) s.fb cx cy

theorem collision_drawn : (drawn x y n s).collision = true ↔
    ∃ cx cy, s.fb.cell cx cy = true ∧ drawnBit x y n s cx cy = true :=
  collision_drawSprite (length_spriteRows_le n s) s.fb

theorem getV_vf_afterDraw : (afterDraw x y n s).getV vf = flagByte (drawn x y n s).collision := by
  rw [afterDraw, State.getV_setDirty, State.getV_setV_same]

/-- The source bit in terms of the bytes at I (R191: bit 7 leftmost, both coordinates wrapped). -/
theorem drawnBit_eq_true {cx : Fin 64} {cy : Fin 32} : drawnBit x y n s cx cy = true ↔
    ∃ r j, r < n.val ∧ j < 8 ∧ cx.val = ((s.getV x).toNat + j) % 64 ∧ cy.val = ((s.getV y).toNat + r) % 32 ∧
      (s.mem.readByte (dataAddress s + r)).getLsbD (7 - j) = true := by
  rw [drawnBit, spriteBit_eq_true, Memory.length_readBytes]
  refine exists₂_congr fun r j => and_congr_right fun hr => ?_
  rw [Memory.getD_readBytes, if_pos hr, dataAddress]

end Sprite

section Next
variable {x y : Reg} {n : RowCount} {s t : State}

theorem exec_draw_next (h : exec (.draw x y n) s = .next t) : t = afterDraw x y n s := by
  obtain ⟨-, e⟩ | ⟨-, e⟩ := exec_draw_cases x y n s <;> rw [e] at h <;> cases h
  rfl

/-- A draw whose coordinates are not VF leaves the sprite it drew where it was. -/
theorem drawnBit_afterDraw (hx : x ≠ vf) (hy : y ≠ vf) (cx : Fin 64) (cy : Fin 32) :
    drawnBit x y n (afterDraw x y n s) cx cy = drawnBit x y n s cx cy := by
  simp [drawnBit, afterDraw, State.getV_setV_ne, hx, hy]

end Next

/-! ### The obligations -/

/-- Settles O29: an XOR changes a cell where the source bit is 1, and clears a set cell exactly there. -/
theorem drawInvertsTheCellsUnderTheSprite : Obligations.DrawInvertsTheCellsUnderTheSprite := by
  intro x y n s
  obtain ⟨hroom, e⟩ | ⟨hover, e⟩ := exec_draw_cases x y n s
  · refine ⟨fun _ => ⟨_, e, fun cx cy => ?_, ?_, rfl⟩, fun hover => absurd hroom (Nat.not_le_of_lt hover)⟩
    · rw [← drawnBit_eq_true, cell_afterDraw]
      cases s.fb.cell cx cy <;> simp
    · have hcleared : (∃ cx cy, s.fb.cell cx cy = true ∧ (afterDraw x y n s).fb.cell cx cy = false) ↔
          (drawn x y n s).collision = true := by
        rw [collision_drawn]
        refine exists₂_congr fun cx cy => and_congr_right fun hset => ?_
        rw [cell_afterDraw, hset, Bool.true_xor, Bool.not_eq_false']
      rw [getV_vf_afterDraw, flagByte_toNat]
      simp only [hcleared]
  · exact ⟨fun hroom => absurd hroom (Nat.not_le_of_lt hover), fun _ => e⟩

/-- Settles O30: each cell is XORed twice with the same bit. -/
theorem drawingTwiceRestoresTheFramebuffer : Obligations.DrawingTwiceRestoresTheFramebuffer := by
  intro x y n s t u hx hy hfirst hsecond
  obtain rfl := exec_draw_next hfirst
  obtain rfl := exec_draw_next hsecond
  refine Framebuffer.ext_cell fun cx cy => ?_
  rw [cell_afterDraw, cell_afterDraw, drawnBit_afterDraw hx hy, Bool.xor_assoc, Bool.xor_self, Bool.xor_false]

/-- Settles O31: no source bit meets a cell whose column or row is outside. -/
theorem drawStaysInItsRectangle : Obligations.DrawStaysInItsRectangle := by
  intro x y n s t cx cy hdraw houtside
  obtain rfl := exec_draw_next hdraw
  have hbit : drawnBit x y n s cx cy = false := by
    rw [← Bool.not_eq_true, drawnBit_eq_true]
    rintro ⟨r, j, hr, hj, hcx, hcy, -⟩
    obtain hcol | hrow := houtside
    · exact hcol j hj hcx
    · exact hrow r hr hcy
  rw [cell_afterDraw, hbit, Bool.xor_false]

end Sys2Proof.Proofs.Sprites
end

section
/-!
PROOF. The key skips, wait-for-key and the timer moves (45_keys_timers.md). The skips are ControlFlow's skip on the cell that
Vx numbers; wait-for-key is Laws' two cases, of which the keys down decide.
-/
namespace Sys2Proof.Proofs.KeysTimers
open Sys2Proof.Machine Sys2Proof.Proofs.ControlFlow

/-! ### What each instruction answers -/

section Answers
variable (x : Reg) (s : State)

theorem exec_skipIfPressed : exec (.skipIfPressed x) s = skipOnKey x (fun down => down) s := rfl
theorem exec_skipIfNotPressed : exec (.skipIfNotPressed x) s = skipOnKey x (fun down => !down) s := rfl
theorem exec_waitForKey : exec (.waitForKey x) s = execWaitForKey x s := rfl
theorem exec_loadDt : exec (.loadDt x) s = .next (s.setV x s.dt) := rfl
theorem exec_setDt : exec (.setDt x) s = .next (s.setDt (s.getV x)) := rfl
theorem exec_setSt : exec (.setSt x) s = .next (s.setSt (s.getV x)) := rfl

end Answers

section KeySkip
variable {x : Reg} {s : State}

/-- A key skip with Vx the number of a key. -/
theorem skipOnKey_of_key {k : Fin 16} (h : (s.getV x).toNat = k.val) (c : Bool → Bool) :
    skipOnKey x c s = .next (skipIf (c s.key[k]) s) := by
  obtain ⟨_, e⟩ | ⟨hbeyond, -⟩ := skipOnKey_cases x c s
  · simp only [e, h, Fin.getElem_fin]
  · omega

theorem skipOnKey_beyond (h : 15 < (s.getV x).toNat) (c : Bool → Bool) :
    skipOnKey x c s = .fault (.keyIndexOutOfRange s) := by
  obtain ⟨hkey, -⟩ | ⟨-, e⟩ := skipOnKey_cases x c s
  · omega
  · exact e

end KeySkip

/-! ### The obligations -/

/-- Settles O32: the two skips put opposite conditions on one cell. -/
theorem keySkipsMovePc : Obligations.KeySkipsMovePc := by
  refine fun x s hpc => ⟨fun k hk => ⟨?_, ?_⟩, fun hbeyond => ⟨?_, ?_⟩⟩
  · refine ⟨_, (exec_skipIfPressed x s).trans (skipOnKey_of_key hk _), ?_⟩
    rw [skipIf_pc_toNat hpc]
  · refine ⟨_, (exec_skipIfNotPressed x s).trans (skipOnKey_of_key hk _), ?_⟩
    rw [skipIf_pc_toNat hpc]
    cases s.key[k] <;> rfl
  · exact (exec_skipIfPressed x s).trans (skipOnKey_beyond hbeyond _)
  · exact (exec_skipIfNotPressed x s).trans (skipOnKey_beyond hbeyond _)

/-- Settles O33: either no key is down, or the lowest one down is the one named. -/
theorem waitForKeyRetriesOrTakesTheLowestKey : Obligations.WaitForKeyRetriesOrTakesTheLowestKey := by
  intro x s
  rw [exec_waitForKey]
  refine ⟨fun hup hpc => ?_, fun k hdown hlow => ?_⟩
  · obtain ⟨-, e⟩ | ⟨k, hdown, -⟩ := execWaitForKey_cases x s
    · refine ⟨_, e, ?_, (UnchangedOutside.refl _ s).setPc rfl _⟩
      rw [State.setPc_pc]
      bv_omega
    · simp [hup k] at hdown
  · have hlowest : lowestKey s.key = some k := lowestKey_eq_some.mpr ⟨hdown, hlow⟩
    refine ⟨s.setV x (keyByte k), by rw [execWaitForKey, hlowest], ?_, rfl⟩
    rw [State.getV_setV_same, keyByte_toNat]

/-- Settles O34: each moves one byte, and neither timer write is a write of TREF. -/
theorem timerRegisterResults : Obligations.TimerRegisterResults := by
  refine fun x s => ⟨⟨_, exec_loadDt x s, State.getV_setV_same s x s.dt⟩, ⟨_, exec_setDt x s, ?_, ?_⟩,
    ⟨_, exec_setSt x s, ?_, ?_⟩⟩
  · exact State.setDt_dt s _
  · exact State.setDt_tref s _
  · exact State.setSt_st s _
  · exact State.setSt_tref s _

end Sys2Proof.Proofs.KeysTimers
end

section
/-!
PROOF. Reset, load, clean launch and idle states, and the snapshot (46_host_interface.md R226, R229, R230;
70_reset_and_hazards.md R281, R288). A launch state is Laws' reset with the image written and the key latch replaced; an idle
step is one jump to the PC it was fetched from.
-/
namespace Sys2Proof.Proofs.Launch
open Sys2Proof.Machine Sys2Proof.Proofs.Blocks Sys2Proof.Proofs.Encoding Sys2Proof.Proofs.StepOutcomes
  Sys2Proof.Proofs.HostInterface

/-! ### Reset (R40, R230) -/

section Reset
variable (now : Nat) (s : State)

theorem readByte_reservedImage (a : Nat) : Config.reservedImage.getD a 0 = 0 := by
  rw [Config.reservedImage, List.getD_eq_getElem?_getD, List.getElem?_replicate]
  split <;> rfl

theorem resetMachine_mem : (resetMachine now s).mem = [] := by
  rw [resetMachine_eq]
  rfl

/-- Every byte of memory is zero, the default RESERVED_IMAGE included. -/
theorem readByte_resetMachine (a : Nat) : (resetMachine now s).mem.readByte a = 0 := by
  rw [resetMachine_mem]
  rfl

end Reset

/-! ### The load (R226) -/

/-- An image that fits reports no error and is written from 0x200. -/
theorem loadRom_of_fits {rom : List Byte} (h : rom.length ≤ 3584) (s : State) :
    loadRom rom s = (none, s.setMem (s.mem.writeBytes 0x200 rom)) := by
  obtain ⟨-, e⟩ | ⟨hlong, -⟩ := loadRom_cases rom s
  · exact e
  · omega

/-! ### Clean launch states (R281) -/

/-- The state of a reset with an image loaded and a key latch put in place. -/
def launchState (rom : List Byte) (now : Nat) (s : State) (key : Vector Bool 16) : State :=
  ((resetMachine now s).setMem ((resetMachine now s).mem.writeBytes 0x200 rom)).setKeys key

theorem launchState_key (rom : List Byte) (now : Nat) (s : State) (key : Vector Bool 16) :
    (launchState rom now s key).key = key := by
  rw [launchState, State.setKeys_key]

theorem cleanLaunch_launchState {rom : List Byte} (hfits : rom.length ≤ 3584) (now : Nat) (s : State)
    (key : Vector Bool 16) : CleanLaunch rom now (launchState rom now s key) := by
  unfold launchState
  have hload := loadRom_of_fits hfits (resetMachine now s)
  obtain ⟨keys, hkeys, hreach⟩ := exists_keyTransactions (loadRom rom (resetMachine now s)).2 key
  rw [hload] at hreach
  exact ⟨hfits, s, _, keys, hload, hkeys, hreach.symm⟩

theorem cleanLaunch_eq {rom : List Byte} {now : Nat} {t : State} (h : CleanLaunch rom now t) :
    rom.length ≤ 3584 ∧ ∃ s key, t = launchState rom now s key := by
  obtain ⟨hfits, s, u, keys, hload, hkeys, rfl⟩ := h
  rw [loadRom_of_fits hfits] at hload
  cases hload
  exact ⟨hfits, s, _, transactAll_keys hkeys _⟩

/-! ### Idle states (R288) -/

/-- Whether a state is idle is a matter of PC and memory. -/
theorem idle_of_eq {s t : State} (hpc : t.pc = s.pc) (hmem : t.mem = s.mem) (h : Idle s) : Idle t := by
  simpa only [Idle, wordAtPc, hpc, hmem] using h

/-- The word at PC of an idle state decodes to a jump to PC. -/
theorem decodeWord_of_idle {s : State} (h : Idle s) :
    ∃ nnn, decodeWord (wordAtPc s) = .ok (.jump nnn) ∧ addressOperand nnn = s.pc := by
  obtain ⟨hroom, hword⟩ := h
  have hpc : (BitVec.ofNat 12 s.pc.toNat).toNat = s.pc.toNat := by
    rw [BitVec.toNat_ofNat]
    omega
  have hencode : encodeWord (.jump (BitVec.ofNat 12 s.pc.toNat)) = wordAtPc s := by
    apply BitVec.eq_of_toNat_eq
    rw [encodeWord, encodeA_toNat, hpc, hword]
    rfl
  refine ⟨_, hencode ▸ decodeWord_encodeWord _, BitVec.eq_of_toNat_eq ?_⟩
  rw [addressOperand_toNat, hpc]

/-- The step of an idle state: the fetch moved PC on and the jump puts it back. -/
theorem stepWith_of_idle {s : State} (h : Idle s) (now : Nat) (rand : Byte) :
    stepWith now rand s = .next ((afterFetch now rand s).setPc s.pc) := by
  obtain ⟨nnn, hd, hpc⟩ := decodeWord_of_idle h
  obtain ⟨hroom, -⟩ := h
  rw [stepWith_of_decode_ok hroom hd, postCheck_eq_next]
  refine ⟨?_, ?_⟩
  · rw [← hpc]
    rfl
  · rw [State.setPc_pc]
    omega

/-! ### The obligations -/

/-- Settles O54: Laws' two cases of a load, and the bytes of a block written at 0x200. -/
theorem loadRomWritesFrom0x200 : Obligations.LoadRomWritesFrom0x200 := by
  refine fun rom s => ⟨fun hfits => ?_, fun hlong => ?_⟩
  · rw [loadRom_of_fits hfits]
    exact ⟨rfl, fun k => readByte_writeBytes_in s.mem 0x200, fun a => readByte_writeBytes_out s.mem, rfl⟩
  · obtain ⟨hfits, -⟩ | ⟨-, e⟩ := loadRom_cases rom s
    · omega
    · exact e

/-- Settles O57: the flat position splits into row and column by division by 64. -/
theorem snapshotIsRowMajor : Obligations.SnapshotIsRowMajor := by
  intro s cx cy
  have hlt : cy.val * 64 + cx.val < 32 * 64 := by omega
  have hrow : (cy.val * 64 + cx.val) / 64 = cy.val := by omega
  have hcol : (cy.val * 64 + cx.val) % 64 = cx.val := by omega
  rw [Vector.getElem?_eq_getElem hlt, snapshot, Vector.getElem_flatten]
  simp only [hrow, hcol]
  rfl

/-- Settles O58: every field of Laws' form of a reset. -/
theorem resetValues : Obligations.ResetValues := by
  refine ⟨fun now s => ⟨?_, fun a _ => readByte_resetMachine now s a, fun a _ => ?_, ?_⟩, ?_⟩
  · rw [resetMachine_eq]
    rfl
  · rw [readByte_resetMachine, readByte_reservedImage]
  · rw [resetMachine_eq]
    exact ⟨fun k => Vector.getElem_replicate k.isLt, rfl, rfl, fun k => Vector.getElem_replicate k.isLt, rfl, rfl, rfl,
      fun k => Vector.getElem_replicate k.isLt, Framebuffer.cell_clear, rfl, rfl⟩
  · rw [resetMachine_eq]
    rfl

/-- Settles O59: outside memory and keys a launch state is the reset, and each combination of keys is reached by key
transactions. -/
theorem cleanLaunchState : Obligations.CleanLaunchState := by
  refine ⟨fun rom now t hlaunch => ?_, fun rom now key hfits => ?_⟩
  · obtain ⟨hfits, s, key, rfl⟩ := cleanLaunch_eq hlaunch
    obtain ⟨hreset, -⟩ := resetValues
    obtain ⟨hpc, hzero, himage, hv, hi, hsp, hstk, hdt, hst, htref, -, hfb, hdirty, hir⟩ := hreset now s
    unfold launchState
    generalize resetMachine now s = r at *
    refine ⟨hfits, hpc, fun k => readByte_writeBytes_in r.mem 0x200, fun a ha => ?_, fun a ha => ?_, hv, hi, hsp, hstk,
      hdt, hst, htref, hfb, hdirty, hir⟩
    · exact (readByte_writeBytes_out r.mem (.inr ha)).trans (hzero a (by omega))
    · exact (readByte_writeBytes_out r.mem (.inl ha)).trans (himage a ha)
  · exact ⟨_, cleanLaunch_launchState hfits now .reset key, launchState_key rom now .reset key⟩

/-- Settles O60: the state after the step differs from the one after the fetch in PC alone, which is the old one. -/
theorem idleStatesStayIdle : Obligations.IdleStatesStayIdle := by
  intro now rand s hidle
  have hmem : ((afterFetch now rand s).setPc s.pc).mem = s.mem := by rw [State.setPc_mem, afterFetch_mem]
  refine ⟨(afterFetch now rand s).setPc s.pc, stepWith_of_idle hidle now rand,
    idle_of_eq (State.setPc_pc _ _) hmem hidle, ?_⟩
  simp only [State.setPc_v, State.setPc_i, State.setPc_pc, State.setPc_sp, State.setPc_stk, State.setPc_key, State.setPc_fb,
    State.setPc_dirty, hmem, State.setPc_ir, afterFetch_v, afterFetch_i, afterFetch_sp, afterFetch_stk,
    afterFetch_key, afterFetch_fb, afterFetch_dirty, afterFetch_ir, and_self]

end Sys2Proof.Proofs.Launch
end
